-- ==== Sys2Proof/Word.lean ====
section
/-! DEFINITION. The widths of the engine: the `u32` of the register and the table, the `u8` of an input byte, the `u10`
of a command word and the `u2` of a control field (spec/00_scope.md R4, R5). Every value is unsigned and bit 0 is the
least significant bit, which is how Lean numbers the bits of a `BitVec`. -/

namespace Sys2Proof

/-- A `u32`: the register `crc` and one entry of the table `T` (00 R4). -/
abbrev Word := BitVec 32

/-- A `u8`: one input byte, and one index of the table (00 R4, R5). -/
abbrev Byte := BitVec 8

/-- A `u10`: one command word, `op` in bits 9:8 and `byte` in bits 7:0 (30 R30). -/
abbrev CommandWord := BitVec 10

/-- A `u2`: a control field as the host sees it, `phase_out` or `fault_out` (10 R11, R13). -/
abbrev Field2 := BitVec 2

/-- A `u4`: the STATUS view (10 R14). -/
abbrev StatusWord := BitVec 4

end Sys2Proof
end

