-- ==== Sys2Proof/Config.lean ====
section
/-! DEFINITION. What the spec leaves to the implementation: the parameters `N_ENGINES` and `CRC_RESET`
(spec/00_scope.md R4, spec/92_eei_decisions.md D15 and D20). -/

namespace Sys2Proof

/-- `N_ENGINES`, "any natural number at least 1, default 1" (00 R4, 92 D20): the number of engines in `State.reset`. No
statement rests on it: `State` holds a list of engines and statements hold for every list. DESIGN CHOICE (log entry 5),
safe. -/
def Config.engineCount : Nat := 1

/-- The value `crc` holds in `State.reset`. The spec gives none (`CRC_RESET`, 10 R17). DESIGN CHOICE (log entry 1), unsafe:
a proof about `State.reset` could lean on it; statements about reset hold for every value instead. -/
def Config.crcAtPowerOn : Word := 0

/-- FREE VALUE: what `crc` of engine `engine` holds after the `reset`-th reset event of a run, unspecified (10 R17,
`CRC_RESET`; 93 U4 "any value"). It has no body, so no proof can see it (log entry 2), safe. -/
opaque Config.crcReset (reset engine : Nat) : Word

end Sys2Proof
end

