-- ==== Sys2Proof/Machine/State.lean ====
section
/-! DEFINITION. The state of the block: the engine instances with `crc`, `phase` and `fault` (spec/10_state.md R10, R11,
R13, R19), and the host side of the command port. The table `T` is a constant and stands in Machine/Ops.lean (10 R12). -/

namespace Sys2Proof.Machine

/-- The lifecycle phase of `crc` (10 R11, 90 C4). Its 2-bit encoding is `Phase.bits`. -/
inductive Phase where
  /-- No INIT since reset; `crc` holds no defined value. -/
  | idle
  /-- `crc` is the seed, zero UPDATEs since the last INIT. -/
  | initialised
  /-- One or more UPDATEs since the last INIT, no FINAL yet. -/
  | accumulating
  /-- `crc` holds the checksum. -/
  | finalised
  deriving DecidableEq, Repr

/-- The causes that `raise` records, one bit of `fault` each (60 R71). -/
inductive Cause where
  /-- PV: UPDATE or FINAL in a phase that does not allow it (60 R72). -/
  | protocolViolation
  /-- IC: a word with `op = 0b00` (60 R73). -/
  | illegalCommand
  deriving DecidableEq, Repr

/-- One engine instance: its whole architectural state (10, opening; R10, R11, R13). -/
structure Engine where
  /-- The one data register (10 R10). -/
  crc : Word
  /-- The lifecycle phase (10 R11). -/
  phase : Phase
  /-- The sticky fault field: bit 0 PV, bit 1 IC (10 R13). -/
  fault : Field2
  deriving DecidableEq, Repr

/-- What the host does at the command port of the block (70 section 6). -/
inductive HostEvent where
  /-- Present one command word to the engine with this number (30 R37, 10 R19). -/
  | command (engine : Nat) (word : CommandWord)
  /-- The reset event, from outside, between two steps (70 R85). -/
  | reset
  /-- Nothing: "unchanged outputs" (70 section 6, R89). -/
  | wait
  deriving DecidableEq, Repr

/-- The machine: every engine instance, and the host's side of the command port. -/
structure State where
  /-- The engine instances, numbered from 0 (10 R19; 00 R4 `N_ENGINES`). -/
  engines : List Engine
  /-- The engine the command word in execution was sent to. The model's own field (log entry 5). -/
  addressed : Nat
  /-- What the host does next, oldest first; the model's own field (log entry 4). -/
  host : List HostEvent
  /-- The reset events taken so far; the model's own field, which only picks a free value (log entry 2). -/
  resets : Nat
  deriving DecidableEq, Repr

/-- Why the machine stops. The spec's two faults (60 R71) are not here: they are next states, taken by `Engine.raise`
(60 R74, log entry 3). -/
inductive Fault where
  /-- Raised by every command when the word was sent to an engine number the block does not have (10 R19 gives each
  engine its own command stream; there is no other port). The model's own stop (log entry 6). Safe. -/
  | noSuchEngine
  deriving DecidableEq, Repr

/-- Why the model gives an instruction no meaning. Every word of the command set has one (30 R37, 60 R82). -/
inductive Refusal where
  /-- Raised by an arm of `exec` whose instruction has no meaning yet; no arm raises it. Safe. -/
  | notModelled (mnemonic : String)
  deriving DecidableEq, Repr

/-- An engine right after reset: `phase = IDLE`, `fault = 0`, and `crc` whatever it holds then (10 R17). -/
def Engine.afterReset (crc : Word) : Engine := { crc := crc, phase := .idle, fault := 0 }

/-- The block right after its first reset with one engine for each entry of `crcs`, whose `crc` holds that entry: the
reset state for every `N_ENGINES` and every `CRC_RESET` (10 R17, 60 R81). -/
def State.afterReset (crcs : List Word) : State :=
  { engines := crcs.map Engine.afterReset, addressed := 0, host := [], resets := 0 }

/-- The machine right after reset (10 R17): `State.afterReset` at the default parameters. -/
def State.reset : State := State.afterReset (List.replicate Config.engineCount Config.crcAtPowerOn)

end Sys2Proof.Machine
end

