-- ==== Sys2Proof/Machine/Flags.lean ====
section
/-! DEFINITION. The control fields: the encoding of `phase`, the only condition code (spec/10_state.md R11), the bits of
`fault` (R13, spec/60_exceptions.md R71), the outputs (R18) and the STATUS view (R14). No arithmetic flag exists (R11). -/

namespace Sys2Proof.Machine

/-- The 2-bit value of a phase (10 R11). -/
def Phase.bits : Phase → Field2
  | .idle => 0b00
  | .initialised => 0b01
  | .accumulating => 0b10
  | .finalised => 0b11

/-- `phase in {INITIALISED, ACCUMULATING}`: UPDATE and FINAL are allowed (30 R37, 41 R54, R55). -/
def Phase.isOpen : Phase → Bool
  | .idle => false
  | .initialised => true
  | .accumulating => true
  | .finalised => false

/-- The bit of `fault` a cause sets (60 R71): PV is bit 0, IC is bit 1. -/
def Cause.bit : Cause → Field2
  | .protocolViolation => 0b01
  | .illegalCommand => 0b10

/-- The engine is halted: `fault != 0` (60 R75). -/
def Engine.halted (e : Engine) : Bool := e.fault != 0

/-- The output `crc_out[31:0]` (10 R18). -/
def Engine.crcOut (e : Engine) : Word := e.crc

/-- The output `phase_out[1:0]` (10 R18). -/
def Engine.phaseOut (e : Engine) : Field2 := e.phase.bits

/-- The output `fault_out[1:0]` (10 R18). -/
def Engine.faultOut (e : Engine) : Field2 := e.fault

/-- `STATUS = {fault[1:0], phase[1:0]}` (10 R14). -/
def Engine.status (e : Engine) : StatusWord := e.faultOut ++ e.phaseOut

/-- The situation in which `crc_out` is a checksum: `phase = FINALISED` and `fault = 0` (10 R18, 70 R88 item 3, R90). -/
def Engine.checksumReady (e : Engine) : Bool := e.phase == .finalised && e.fault == 0

end Sys2Proof.Machine
end

