-- ==== Sys2Proof/Machine/Operands.lean ====
section
/-! DEFINITION. The arithmetic primitives and the one operand form: spec/00_scope.md R6, R7, R8 and the table index of
spec/20_memory.md R21. No other operation occurs in the engine (00 R6). -/

namespace Sys2Proof.Machine

/-- `zext_32(v)` of a byte (00 R7, R8). -/
def zext32 (b : Byte) : Word := b.setWidth 32

/-- `shl32(v, n)`: left shift, overflow bits discarded, zeros enter at the bottom (00 R6). -/
def shl32 (v : Word) (n : Nat) : Word := v <<< n

/-- `shr32(v, n)`: logical right shift (00 R6). -/
def shr32 (v : Word) (n : Nat) : Word := v >>> n

/-- `NOT32(v) = v XOR 0xFFFFFFFF` (00 R6). -/
def not32 (v : Word) : Word := v ^^^ 0xFFFFFFFF#32

/-- The top bit of a `u32`, bit 31 (00 R5). -/
def topBit (v : Word) : Bool := v.getLsbD 31

/-- The engine's only addressing mode: `((crc >> 24) XOR zext_32(byte)) & 0xFF`, a `u8` (20 R21, 00 R7). -/
def tableIndex (crc : Word) (byte : Byte) : Byte :=
  ((shr32 crc 24 ^^^ zext32 byte) &&& 0xFF#32).setWidth 8

end Sys2Proof.Machine
end

