-- ==== Sys2Proof/Machine/Ops.lean ====
section
/-! DEFINITION. The shared operations: the table and its construction (spec/40_table_construction.md), the pure functions
(spec/41_state_transitions.md R50 to R52, spec/42_checksum_sequence.md R60), raising a fault (spec/60_exceptions.md R74),
reset, the only way back from one (R76, spec/70_reset_and_hazards.md R85), and access to the engines. -/

namespace Sys2Proof.Machine

/-- `POLY` (00 R4). -/
def poly : Word := 0x04C11DB7

/-- `SEED` (00 R4). -/
def seed : Word := 0xFFFFFFFF

/-- `bitstep(r)`: the test is made on `r` before the shift (40 R42). -/
def bitstep (r : Word) : Word :=
  if topBit r then shl32 r 1 ^^^ poly else shl32 r 1

/-- `n` applications of `bitstep`. -/
def bitsteps : Nat → Word → Word
  | 0, r => r
  | n + 1, r => bitsteps n (bitstep r)

/-- `table_entry(i)`: the index in the top 8 bits, then exactly 8 bit steps (40 R41). -/
def tableEntry (i : Byte) : Word := bitsteps 8 (shl32 (zext32 i) 24)

/-- `TableRead(i)`, written `T[i]`: the read of the one memory, total for every index and without side effect
(20 R20, R24). The ROM holds the construction's values at every time after reset (10 R12, 20 R26 item 1), so it reads
no state. -/
def tableRead (i : Byte) : Word := tableEntry i

/-- `initialise()` (41 R50). -/
def initialise : Word := seed

/-- `update(state, byte)` (41 R51). -/
def update (state : Word) (byte : Byte) : Word :=
  shl32 state 8 ^^^ tableRead (tableIndex state byte)

/-- `finalise(state)` (41 R52). -/
def finalise (state : Word) : Word := not32 state

/-- The running register after a list of bytes: the left fold of `update` (42 R60). -/
def foldBytes (state : Word) (bytes : List Byte) : Word := bytes.foldl update state

/-- `checksum(bytes)` (42 R60). -/
def checksum (bytes : List Byte) : Word := finalise (foldBytes initialise bytes)

/-- `raise F`, the whole effect of a faulting command: `crc` and `phase` unchanged, `fault <- fault OR bit(F)`; nothing is
saved and control goes nowhere (60 R74). -/
def Engine.raise (c : Cause) (e : Engine) : Engine := { e with fault := e.fault ||| c.bit }

/-- The halt check that comes before every command: with `fault != 0` nothing changes (60 R75, R77; 30 R37). -/
def Engine.unlessHalted (f : Engine → Engine) (e : Engine) : Engine := if e.halted then e else f e

/-- The protocol check of UPDATE and FINAL: the effect in an open phase, ProtocolViolation in IDLE and FINALISED
(60 R72; 41 R54, R55). -/
def Engine.whenOpen (f : Engine → Engine) (e : Engine) : Engine :=
  if e.phase.isOpen then f e else e.raise .protocolViolation

/-- The addressed engine replaced, every other engine as it was (10 R19). -/
def State.withEngine (e : Engine) (s : State) : State := { s with engines := s.engines.set s.addressed e }

/-- The host's list replaced. -/
def State.withHost (h : List HostEvent) (s : State) : State := { s with host := h }

/-- The engine that the next command is for. -/
def State.address (k : Nat) (s : State) : State := { s with addressed := k }

/-- One command on the addressed engine: the halt check, then `f`. It reads and writes no other engine (10 R19, 60 R81).
A word for an engine the block does not have stops the model (log entry 6). -/
def onAddressed (f : Engine → Engine) (s : State) : Host.Outcome State Fault Refusal :=
  match s.engines[s.addressed]? with
  | some e => .next (s.withEngine (e.unlessHalted f))
  | none => .fault .noSuchEngine

/-- The reset event: every engine together to `phase = IDLE`, `fault = 0`, `crc` unspecified (10 R17, 60 R81, 70 R85). It
is the only thing that clears `fault` (60 R76). The value of each `crc` is free (log entry 2). -/
def State.resetEngines (s : State) : State :=
  { s with
    engines := s.engines.mapIdx fun k _ => Engine.afterReset (Config.crcReset s.resets k)
    resets := s.resets + 1 }

end Sys2Proof.Machine
end

