-- ==== Sys2Proof/Machine/Protocol.lean ====
section
/-! DEFINITION. The three commands of the protocol "fresh-initialise, sequential-update, single-finalise": INIT, UPDATE and
FINAL (spec/41_state_transitions.md R53, R54, R55). -/

namespace Sys2Proof.Machine

/-- The effect of INIT on an engine that is not halted (41 R53): legal in every phase; it does not read `crc`. -/
def Engine.init (e : Engine) : Engine := { e with crc := initialise, phase := .initialised }

/-- The effect of UPDATE `byte` on an engine that is not halted (41 R54). -/
def Engine.feed (byte : Byte) (e : Engine) : Engine :=
  e.whenOpen fun e => { e with crc := update e.crc byte, phase := .accumulating }

/-- The effect of FINAL on an engine that is not halted (41 R55): the result is written back into `crc`. -/
def Engine.finish (e : Engine) : Engine :=
  e.whenOpen fun e => { e with crc := finalise e.crc, phase := .finalised }

/-- INIT (41 R53). -/
def execInit (s : State) : Host.Outcome State Fault Refusal := onAddressed Engine.init s

/-- UPDATE `byte` (41 R54). -/
def execUpdate (byte : Byte) (s : State) : Host.Outcome State Fault Refusal := onAddressed (Engine.feed byte) s

/-- FINAL (41 R55). -/
def execFinal (s : State) : Host.Outcome State Fault Refusal := onAddressed Engine.finish s

end Sys2Proof.Machine
end

