-- ==== Sys2Proof/Machine/Reserved.lean ====
section
/-! DEFINITION. The reserved words, `op = 0b00`: IllegalCommand in every phase (spec/30_encoding.md R33,
spec/60_exceptions.md R73). "They are not hints and not no-ops." -/

namespace Sys2Proof.Machine

/-- RESERVED: raises IllegalCommand whatever the phase; the word's `byte` field is ignored (30 R33, 60 R73). -/
def execReserved (_low : Byte) (s : State) : Host.Outcome State Fault Refusal :=
  onAddressed (Engine.raise .illegalCommand) s

end Sys2Proof.Machine
end

