-- ==== Sys2Proof/Machine/Sequence.lean ====
section
/-! DEFINITION. The pseudo-command CHECKSUM: INIT, one UPDATE per byte in order, FINAL, "sent to one engine instance with
nothing between them" (spec/42_checksum_sequence.md R61). -/

namespace Sys2Proof.Machine

/-- One UPDATE after another on one engine, each with its halt check. -/
def Engine.feedAll : List Byte → Engine → Engine
  | [], e => e
  | b :: rest, e => Engine.feedAll rest (e.unlessHalted (Engine.feed b))

/-- The effect of the `n + 2` commands of CHECKSUM, each with its halt check (42 R61, 60 R75). -/
def Engine.checksumSequence (bytes : List Byte) (e : Engine) : Engine :=
  (Engine.feedAll bytes (e.unlessHalted Engine.init)).unlessHalted Engine.finish

/-- CHECKSUM `bytes` (42 R61). -/
def execChecksum (bytes : List Byte) (s : State) : Host.Outcome State Fault Refusal :=
  onAddressed (Engine.checksumSequence bytes) s

end Sys2Proof.Machine
end

