-- ==== Sys2Proof/Syntax.lean ====
section
/-! DEFINITION. The command set `crc32bz-cmd-1` as syntax: one constructor per row of spec/opcode_table.json, and the
lines of the assembler's language (spec/30_encoding.md R31, R36, R37). -/

namespace Sys2Proof

/-- The instructions, one constructor per row of the opcode table. The operand's bound is in its type, so no term holds a
byte out of range. -/
inductive Instr where
  /-- INIT: 30 R31 `op = 0b01`, semantics 41 R53. Its `byte` field is ignored (30 R34) and is no operand. -/
  | init
  /-- UPDATE `byte`: 30 R31 `op = 0b10`, semantics 41 R54. Every byte value is legal (30 R32). -/
  | update (byte : Byte)
  /-- FINAL: 30 R31 `op = 0b11`, semantics 41 R55. Its `byte` field is ignored (30 R34) and is no operand. -/
  | final
  /-- RESERVED: any word with `op = 0b00`, semantics 30 R33 and 60 R73. `low` is the word's ignored `byte` field; no
  canonical word exists for this row, so the field is kept to be able to write the word back (log entry 8). -/
  | reserved (low : Byte)
  /-- CHECKSUM, the pseudo-command: INIT, one UPDATE per byte in order, FINAL (30 R36, 42 R61). The list may be empty. -/
  | checksum (bytes : List Byte)
  deriving DecidableEq, Repr

/-- One command line of the assembler's language with its numbers as written, before any range check (30 R36). -/
inductive Line where
  /-- `init` -/
  | init
  /-- `update <u8>` -/
  | update (value : Nat)
  /-- `final` -/
  | final
  /-- `.word <u10>`: emits any 10-bit word. -/
  | word (value : Nat)
  /-- `checksum <bytes>`: the pseudo-command. -/
  | checksum (values : List Nat)
  deriving DecidableEq, Repr

end Sys2Proof
end

