-- ==== Sys2Proof/Machine/Dispatch.lean ====
section
/-! DEFINITION. One arm per instruction, each one call of its meaning. -/

namespace Sys2Proof.Machine

def exec (i : Instr) (s : State) : Host.Outcome State Fault Refusal :=
  match i with
  | .init => Sys2Proof.Machine.execInit s
  | .update byte => Sys2Proof.Machine.execUpdate byte s
  | .final => Sys2Proof.Machine.execFinal s
  | .reserved low => Sys2Proof.Machine.execReserved low s
  | .checksum bytes => Sys2Proof.Machine.execChecksum bytes s

end Sys2Proof.Machine
end

