-- ==== Sys2Proof/WellFormed.lean ====
section
/-! DEFINITION. What is checked of syntax. An `Instr` carries its operand's bound in its type, so no operand of one can be
ill-formed; what an instruction can lack is a command word of its own. A `Line` holds numbers as the programmer wrote
them, and there the bounds of spec/30_encoding.md R36 (`<u8>`, `<u10>`) are checks. -/

namespace Sys2Proof

/-- The instruction is one command word. The pseudo-command CHECKSUM "adds no hardware and no encoding of its own: it is a
sequence of INIT, UPDATE and FINAL words" (spec/42_checksum_sequence.md, opening; opcode_table.json gives it no width). -/
def Instr.oneWord : Instr → Bool
  | .init => true
  | .update _ => true
  | .final => true
  | .reserved _ => true
  | .checksum _ => false

/-- The number fits the `u8` operand: "operand 0 to 255" (30 R36). -/
def fitsByte (n : Nat) : Bool := decide (n < 256)

/-- The number fits the `u10` operand of `.word` (30 R36). -/
def fitsWord (n : Nat) : Bool := decide (n < 1024)

/-- The operands of a line are in range (30 R36). -/
def Line.wellFormed : Line → Bool
  | .init => true
  | .update n => fitsByte n
  | .final => true
  | .word n => fitsWord n
  | .checksum ns => ns.all fitsByte

end Sys2Proof
end

