-- ==== Sys2Proof/Decode.lean ====
section
/-! DEFINITION. Command words to instructions and back: the total decoder, then the encoder, from the tables of
spec/30_encoding.md R30, R31, R34, R37 and the sequence of spec/42_checksum_sequence.md R61. -/

namespace Sys2Proof

/-- The field `op`, bits 9:8 of a command word (30 R30). -/
def opField (w : CommandWord) : Field2 := w.extractLsb' 8 2

/-- The field `byte`, bits 7:0 of a command word (30 R30, R32): as it stands, not sign-extended, not bit-reversed. -/
def byteField (w : CommandWord) : Byte := w.extractLsb' 0 8

/-- The decoder, a total function of the word alone (30 R37, R35). A reserved word is rejected by name: it decodes to
`reserved`, whose meaning raises IllegalCommand. -/
def decode (w : CommandWord) : Instr :=
  match (opField w).toNat with
  | 0 => .reserved (byteField w)
  | 1 => .init
  | 2 => .update (byteField w)
  | _ => .final

/-- A word from its two fields, `op` in bits 9:8 and `byte` in bits 7:0 (30 R30: `w = op * 256 + byte`). -/
def commandWord (op : Field2) (byte : Byte) : CommandWord := op ++ byte

/-- The canonical words of the three commands (30 R31, R34). -/
def initWord : CommandWord := commandWord 0b01 0

/-- The word `0x200 + byte` (30 R31). -/
def updateWord (byte : Byte) : CommandWord := commandWord 0b10 byte

/-- The canonical word of FINAL (30 R31, R34). -/
def finalWord : CommandWord := commandWord 0b11 0

/-- The command words CHECKSUM expands to, in order (42 R61). -/
def expand (bytes : List Byte) : List CommandWord :=
  initWord :: (bytes.map updateWord ++ [finalWord])

/-- The encoder: the words an assembler emits for an instruction (30 R31, R36; `.word` for a reserved one). -/
def encode : Instr → List CommandWord
  | .init => [initWord]
  | .update b => [updateWord b]
  | .final => [finalWord]
  | .reserved low => [commandWord 0b00 low]
  | .checksum bytes => expand bytes

/-- The commands an instruction stands for: itself, or the expansion of the pseudo-command (42 R61). -/
def Instr.commands : Instr → List Instr
  | .init => [.init]
  | .update b => [.update b]
  | .final => [.final]
  | .reserved low => [.reserved low]
  | .checksum bytes => .init :: (bytes.map .update ++ [.final])

/-- The bytes of the UPDATE words at the head of a list up to a FINAL word that ends it. -/
def updatesThenFinal : List CommandWord → Option (List Byte)
  | [] => none
  | w :: rest =>
    match decode w with
    | .update b => (updatesThenFinal rest).map (b :: ·)
    | .final => if rest.isEmpty then some [] else none
    | _ => none

/-- Reads a list of words as one CHECKSUM: an INIT word, UPDATE words, a FINAL word and nothing after it (42 R61). -/
def recogniseChecksum : List CommandWord → Option (List Byte)
  | [] => none
  | w :: rest =>
    match decode w with
    | .init => updatesThenFinal rest
    | _ => none

/-- The word with the ignored field of an INIT or a FINAL at its canonical value 0 (30 R34); other words as they are. -/
def canonicalWord (w : CommandWord) : CommandWord :=
  match (opField w).toNat with
  | 1 => initWord
  | 3 => finalWord
  | _ => w

/-- The host's question about one word of the opcode table: `w` numbered as the table numbers bits. Each row is one word
of 10 bits, so a number with a bit above bit 9 is no command word and is refused (log entry 9). -/
def decodeTableWord (_nbits w : Nat) : Option Instr :=
  if w < 1024 then some (decode (BitVec.ofNat 10 w)) else none

end Sys2Proof
end

