-- ==== Sys2Proof/Machine/Fetch.lean ====
section
/-! DEFINITION. What a step finds at the command port. There is no program counter and no instruction memory: "the command
executed at a step is the word the host presents at that step" (spec/20_memory.md R28, spec/10_state.md R15). -/

namespace Sys2Proof.Machine

/-- What the host's next event makes of a step. -/
inductive Fetched where
  /-- No command is executed; the machine goes to this state. -/
  | quiet (s : State)
  /-- This instruction is executed in this state. -/
  | run (i : Instr) (s : State)
  deriving DecidableEq, Repr

/-- Takes the host's next event: a command word for one engine is decoded (30 R37); the reset event lands between two
steps (70 R85); a wait, and an empty list, change no engine ("the engine never acts on its own", 70 section 6). -/
def fetch (s : State) : Fetched :=
  match s.host with
  | [] => .quiet s
  | .wait :: rest => .quiet (s.withHost rest)
  | .reset :: rest => .quiet (s.withHost rest).resetEngines
  | .command k w :: rest => .run (decode w) ((s.withHost rest).address k)

/-- The state with this word presented to the addressed engine before everything the host does next. -/
def State.present (w : CommandWord) (s : State) : State := s.withHost (.command s.addressed w :: s.host)

end Sys2Proof.Machine
end

