-- ==== Sys2Proof/Machine/Step.lean ====
section
/-! DEFINITION. One step: the host's next event, and the command it presents (spec/30_encoding.md R37, spec/70 R89). -/

namespace Sys2Proof.Machine

/-- One atomic step (70 R89). -/
def step (s : State) : Host.Outcome State Fault Refusal :=
  match fetch s with
  | .quiet t => .next t
  | .run i t => exec i t

/-- `s` with the table word `w` presented to the addressed engine, so that the next step runs exactly it. The port is ten
bits wide: only bits 9:0 of `w` reach it (log entry 9). -/
def State.withFetchWord (s : State) (_nbits w : Nat) : State := s.present (BitVec.ofNat 10 w)

end Sys2Proof.Machine
end

