-- ==== Sys2Proof/Machine/Assembler.lean ====
section
/-! DEFINITION. The assembler of spec/30_encoding.md R36, from source text to command words. "One command per line; a `;`
starts a comment; mnemonics are lower case; numbers are decimal or `0x` hexadecimal; a character in single quotes stands
for its 8-bit code." What R36 leaves to the reader of a line (where blanks may and must stand, a `;` inside
quotes, trailing commas) is a DESIGN CHOICE, log entry 11. -/

namespace Sys2Proof.Machine

/-- Why a line is no command line. -/
inductive AsmError where
  /-- A quotation without its end, a character without an 8-bit code, a number with a character that is no digit, or a
  mnemonic or number directly followed by a quote with no blank between (`update'h'`, `checksum"ab"`). R36 is silent on
  that last case: refusing it is a DESIGN CHOICE (log entry 11). -/
  | badToken
  /-- No mnemonic of R36. -/
  | badMnemonic
  /-- Not the operands R36 gives the mnemonic. -/
  | badOperands
  /-- A number above 255, or above 1023 for `.word`. -/
  | outOfRange
  deriving DecidableEq, Repr

/-- The parts of a source line. -/
inductive Token where
  /-- A word that does not begin with a digit. -/
  | name (text : List Char)
  /-- A number, or the 8-bit code of a quoted character. -/
  | number (value : Nat)
  /-- The bytes of a quoted string. -/
  | bytes (values : List Nat)
  /-- A comma. -/
  | comma
  deriving DecidableEq, Repr

/-- The double quote. -/
def doubleQuote : Char := Char.ofNat 34

/-- The single quote. -/
def singleQuote : Char := Char.ofNat 39

/-- The value of a decimal digit. -/
def decimalDigit (c : Char) : Option Nat :=
  if 48 ≤ c.toNat ∧ c.toNat ≤ 57 then some (c.toNat - 48) else none

/-- The value of a hexadecimal digit, in either case. -/
def hexDigit (c : Char) : Option Nat :=
  if 97 ≤ c.toNat ∧ c.toNat ≤ 102 then some (c.toNat - 87)
  else if 65 ≤ c.toNat ∧ c.toNat ≤ 70 then some (c.toNat - 55)
  else decimalDigit c

/-- The number that digits of a base write, after the digits already read. -/
def digits (base : Nat) (digit : Char → Option Nat) : Nat → List Char → Option Nat
  | acc, [] => some acc
  | acc, c :: rest =>
    match digit c with
    | some d => digits base digit (acc * base + d) rest
    | none => none

/-- A number, decimal or `0x` hexadecimal (30 R36). -/
def readNumber : List Char → Option Nat
  | '0' :: 'x' :: c :: rest => digits 16 hexDigit 0 (c :: rest)
  | cs => digits 10 decimalDigit 0 cs

/-- The token of a run of characters: a number if it begins with a digit, else a name. -/
def wordToken (cs : List Char) : Except AsmError Token :=
  match cs with
  | c :: _ =>
    if (decimalDigit c).isSome then
      match readNumber cs with
      | some n => .ok (.number n)
      | none => .error .badToken
    else .ok (.name cs)
  | [] => .error .badToken

/-- The 8-bit code of a character (30 R36). Which code that is, is PRESUMED; a character whose code is above 255 has none and
is refused (log entry 11). -/
def charCode (c : Char) : Except AsmError Nat := if c.toNat < 256 then .ok c.toNat else .error .badToken

/-- The bytes of a quoted string: one byte for each character, its 8-bit code, in order. R36 says only "taken as its bytes"
and names no encoding, so this is a DESIGN CHOICE (log entry 11): a character above 127 gives no UTF-8 bytes, and a string
with a character above 255 is refused. -/
def charCodes : List Char → Except AsmError (List Nat)
  | [] => .ok []
  | c :: rest =>
    match charCode c, charCodes rest with
    | .ok n, .ok ns => .ok (n :: ns)
    | _, _ => .error .badToken

/-- Where the reader of a line stands. -/
inductive LexMode where
  /-- Between two tokens. -/
  | gap
  /-- Inside a word; its characters so far, last first. -/
  | word (seen : List Char)
  /-- Inside a string; its characters so far, last first. -/
  | string (seen : List Char)
  /-- After the opening single quote. -/
  | charOpen
  /-- After the quoted character. -/
  | charSeen (c : Char)
  deriving DecidableEq, Repr

/-- Puts a token before the tokens of the rest of the line. -/
def consToken (t : Except AsmError Token) (rest : Except AsmError (List Token)) : Except AsmError (List Token) :=
  match t, rest with
  | .ok t, .ok ts => .ok (t :: ts)
  | .error e, _ => .error e
  | _, .error e => .error e

/-- A space or a tabulator. -/
def isBlank (c : Char) : Bool := c.toNat = 32 || c.toNat = 9

/-- The tokens of one source line, up to a comment (30 R36). A word that runs into a quote with no blank between is refused
as `badToken`; R36 is silent on it, so that is a DESIGN CHOICE, as is where blanks may stand (log entry 11). -/
def lex : LexMode → List Char → Except AsmError (List Token)
  | .gap, [] => .ok []
  | .gap, c :: rest =>
    if c = ';' then .ok []
    else if isBlank c then lex .gap rest
    else if c = ',' then consToken (.ok .comma) (lex .gap rest)
    else if c = doubleQuote then lex (.string []) rest
    else if c = singleQuote then lex .charOpen rest
    else lex (.word [c]) rest
  | .word seen, [] => consToken (wordToken seen.reverse) (.ok [])
  | .word seen, c :: rest =>
    if c = ';' then consToken (wordToken seen.reverse) (.ok [])
    else if isBlank c then consToken (wordToken seen.reverse) (lex .gap rest)
    else if c = ',' then consToken (wordToken seen.reverse) (consToken (.ok .comma) (lex .gap rest))
    else if c = doubleQuote ∨ c = singleQuote then .error .badToken
    else lex (.word (c :: seen)) rest
  | .string _, [] => .error .badToken
  | .string seen, c :: rest =>
    if c = doubleQuote then
      match charCodes seen.reverse with
      | .ok ns => consToken (.ok (.bytes ns)) (lex .gap rest)
      | .error e => .error e
    else lex (.string (c :: seen)) rest
  | .charOpen, [] => .error .badToken
  | .charOpen, c :: rest => lex (.charSeen c) rest
  | .charSeen _, [] => .error .badToken
  | .charSeen c, d :: rest =>
    if d = singleQuote then
      match charCode c with
      | .ok n => consToken (.ok (.number n)) (lex .gap rest)
      | .error e => .error e
    else .error .badToken

/-- The numbers of a list with commas between them; at least one number. -/
def readList : List Token → Except AsmError (List Nat)
  | [.number n] => .ok [n]
  | .number n :: .comma :: rest =>
    match readList rest with
    | .ok ns => .ok (n :: ns)
    | .error e => .error e
  | _ => .error .badOperands

/-- The command line that a line's tokens write; none for a line with no token (30 R36). -/
def readLine : List Token → Except AsmError (Option Line)
  | [] => .ok none
  | .name m :: operands =>
    if m = ['i', 'n', 'i', 't'] then
      match operands with
      | [] => .ok (some .init)
      | _ => .error .badOperands
    else if m = ['u', 'p', 'd', 'a', 't', 'e'] then
      match operands with
      | [.number n] => .ok (some (.update n))
      | _ => .error .badOperands
    else if m = ['f', 'i', 'n', 'a', 'l'] then
      match operands with
      | [] => .ok (some .final)
      | _ => .error .badOperands
    else if m = ['.', 'w', 'o', 'r', 'd'] then
      match operands with
      | [.number n] => .ok (some (.word n))
      | _ => .error .badOperands
    else if m = ['c', 'h', 'e', 'c', 'k', 's', 'u', 'm'] then
      match operands with
      | [.bytes ns] => .ok (some (.checksum ns))
      | ts =>
        match readList ts with
        | .ok ns => .ok (some (.checksum ns))
        | .error e => .error e
    else .error .badMnemonic
  | _ => .error .badMnemonic

/-- The words a command line emits (30 R36). -/
def Line.words : Line → List CommandWord
  | .init => encode .init
  | .update n => encode (.update (BitVec.ofNat 8 n))
  | .final => encode .final
  | .word n => [BitVec.ofNat 10 n]
  | .checksum ns => encode (.checksum (ns.map (BitVec.ofNat 8)))

/-- The words of a command line whose operands are in range. -/
def assembleLine (l : Line) : Except AsmError (List CommandWord) :=
  if l.wellFormed then .ok (Line.words l) else .error .outOfRange

/-- The words of a list of command lines, in order: "one command per line" (30 R36). -/
def assemble : List Line → Except AsmError (List CommandWord)
  | [] => .ok []
  | l :: rest =>
    match assembleLine l, assemble rest with
    | .ok ws, .ok more => .ok (ws ++ more)
    | .error e, _ => .error e
    | _, .error e => .error e

/-- The words of one source line; a line with only blanks and a comment emits none. -/
def assembleSource (text : List Char) : Except AsmError (List CommandWord) :=
  match lex .gap text with
  | .error e => .error e
  | .ok ts =>
    match readLine ts with
    | .error e => .error e
    | .ok none => .ok []
    | .ok (some l) => assembleLine l

/-- The lines of a text: it is cut at each line feed. `seen` holds the current line so far, last character first. -/
def sourceLines : List Char → List Char → List (List Char)
  | seen, [] => [seen.reverse]
  | seen, c :: rest => if c.toNat = 10 then seen.reverse :: sourceLines [] rest else sourceLines (c :: seen) rest

/-- The words of source lines, in order. -/
def assembleSources : List (List Char) → Except AsmError (List CommandWord)
  | [] => .ok []
  | t :: rest =>
    match assembleSource t, assembleSources rest with
    | .ok ws, .ok more => .ok (ws ++ more)
    | .error e, _ => .error e
    | _, .error e => .error e

/-- The words of a whole source text (30 R36). -/
def assembleText (text : String) : Except AsmError (List CommandWord) := assembleSources (sourceLines [] text.toList)

end Sys2Proof.Machine
end

