-- ==== Sys2Proof/Safety.lean ====
section
/-! DEFINITION. The terms claims are stated in: the transition function of spec/30_encoding.md R37 written as its
pseudocode reads, the cases that raise a fault (spec/60_exceptions.md R72, R73), a computation that has gone right (R82,
spec/70_reset_and_hazards.md R90), and the invariant of the machine. -/

namespace Sys2Proof.Machine

/-- `step(S, w)` of one engine, clause by clause as 30 R37 writes it: the halt check, `case w[9:8]`, the guards on
`phase`, and `raise`. It shares with the meanings only the pure functions of 41 R50 to R52. -/
def specStep (e : Engine) (w : CommandWord) : Engine :=
  if e.fault ≠ 0 then e
  else if w.extractLsb' 8 2 = 0b00#2 then { e with fault := e.fault ||| 0b10#2 }
  else if w.extractLsb' 8 2 = 0b01#2 then { e with crc := 0xFFFFFFFF#32, phase := .initialised }
  else if w.extractLsb' 8 2 = 0b10#2 then
    if e.phase = .initialised ∨ e.phase = .accumulating then
      { e with crc := update e.crc (w.extractLsb' 0 8), phase := .accumulating }
    else { e with fault := e.fault ||| 0b01#2 }
  else
    if e.phase = .initialised ∨ e.phase = .accumulating then
      { e with crc := e.crc ^^^ 0xFFFFFFFF#32, phase := .finalised }
    else { e with fault := e.fault ||| 0b01#2 }

/-- The fault a command raises in an engine with `fault = 0`, if any: the four combinations of 60 R72 and the words of
60 R73, which 60 R82 calls the faults of the model. -/
def raised (p : Phase) : Instr → Option Cause
  | .init => none
  | .update _ => if p = .idle ∨ p = .finalised then some .protocolViolation else none
  | .final => if p = .idle ∨ p = .finalised then some .protocolViolation else none
  | .reserved _ => some .illegalCommand
  | .checksum _ => none

/-- A computation has gone right and `crc_out` is its checksum (60 R82, 70 R90). -/
def Engine.endedWell (e : Engine) : Prop := e.phase = .finalised ∧ e.fault = 0

/-- The command words among a list of host events that go to engine `k`, in order. -/
def wordsFor (k : Nat) : List HostEvent → List CommandWord
  | [] => []
  | .command j w :: rest => if j = k then w :: wordsFor k rest else wordsFor k rest
  | .reset :: rest => wordsFor k rest
  | .wait :: rest => wordsFor k rest

/-- The phase after a command in an engine with `fault = 0`: the transition table of 41 section 3, by phase and by the
`op` of the word. "PV" and IllegalCommand entries keep the phase. -/
def phaseAfter (p : Phase) (op : Field2) : Phase :=
  match p, op.toNat with
  | _, 1 => .initialised
  | .initialised, 2 => .accumulating
  | .accumulating, 2 => .accumulating
  | .initialised, 3 => .finalised
  | .accumulating, 3 => .finalised
  | p, _ => p

/-- `n` steps, stopping at the first stop: the host's `run` of this machine (`runSteps_eq_run`). -/
def runSteps : Nat → State → Host.Outcome State Fault Refusal
  | 0, s => .next s
  | n + 1, s =>
    match step s with
    | .next t => runSteps n t
    | stop => stop

/-- The event is no reset, and a command goes to one of the first `n` engines. -/
def HostEvent.isPlain (n : Nat) : HostEvent → Bool
  | .command k _ => decide (k < n)
  | .reset => false
  | .wait => true

/-- The event is a reset. -/
def HostEvent.isReset : HostEvent → Bool
  | .command _ _ => false
  | .reset => true
  | .wait => false

/-- What is true of one engine at every time after reset: `fault` is never 3 (10 R13), and in INITIALISED the register is
the seed (10 R11). -/
def Engine.ok (e : Engine) : Prop := e.fault ≠ 3 ∧ (e.phase = .initialised → e.crc = 0xFFFFFFFF#32)

/-- The invariant of the machine: every engine is `ok`, and the addressed engine exists. -/
def State.Inv (s : State) : Prop := s.addressed < s.engines.length ∧ ∀ e ∈ s.engines, e.ok

/-- Two engines that no command can tell apart: equal, or both in IDLE with the same `fault`, whatever their `crc`
(10 R17: "no rule reads `crc` while `phase` is IDLE"). -/
def Engine.Alike (a b : Engine) : Prop := a = b ∨ (a.phase = .idle ∧ b.phase = .idle ∧ a.fault = b.fault)

/-- Two states whose engines are pairwise alike and which agree in everything else. -/
def State.Alike (s t : State) : Prop :=
  List.Forall₂ Engine.Alike s.engines t.engines ∧ s.addressed = t.addressed ∧ s.host = t.host ∧ s.resets = t.resets

/-- Two outcomes that agree: both next states, alike, or the same stop. -/
def OutcomesAlike : Host.Outcome State Fault Refusal → Host.Outcome State Fault Refusal → Prop
  | .next s, .next t => s.Alike t
  | .fault a, .fault b => a = b
  | .refused a, .refused b => a = b
  | _, _ => False

end Sys2Proof.Machine
end

