-- ==== Sys2Proof/Certificates/Slice0/Obligations.lean ====
section
/-! DEFINITION. The statements about the model, for the provers. Each docstring names the rule or the section of spec/ it
formalises; OBLIGATIONS.json holds the same in words. -/

open Sys2Proof Sys2Proof.Machine

/-! ## Encoding -/

/-- 30 R31: the word ranges of the table, and the canonical words. -/
def Obligations.EveryWordDecodesByItsOpField : Prop :=
  (∀ w : CommandWord,
    (w.toNat ≤ 0x0FF → ∃ low, decode w = .reserved low) ∧
    (0x100 ≤ w.toNat ∧ w.toNat ≤ 0x1FF → decode w = .init) ∧
    (0x200 ≤ w.toNat ∧ w.toNat ≤ 0x2FF → decode w = .update (BitVec.ofNat 8 (w.toNat - 0x200))) ∧
    (0x300 ≤ w.toNat → decode w = .final)) ∧
  encode .init = [0x100#10] ∧ (∀ b : Byte, encode (.update b) = [0x200#10 + b.setWidth 10]) ∧ encode .final = [0x300#10]

/-- 95 section 2.5: the ten words of the decoding table. -/
def Obligations.DecodingTableWords : Prop :=
  decode 0b0000000000 = .reserved 0x00 ∧ decode 0b0011111111 = .reserved 0xFF ∧
  decode 0b0100000000 = .init ∧ decode 0b0110101011 = .init ∧ decode 0b0111111111 = .init ∧
  decode 0b1000000000 = .update 0x00 ∧ decode 0b1000100000 = .update 0x20 ∧ decode 0b1011111111 = .update 0xFF ∧
  decode 0b1100000000 = .final ∧ decode 0b1111111111 = .final

/-- 30 R30, R31, R36 and 42 R61: decoding what the encoder gives, for every instruction and every operand. -/
def Obligations.DecodeOfEncodeGivesTheInstruction : Prop :=
  (∀ i : Instr, i.oneWord = true → (encode i).map decode = [i]) ∧
  (∀ i : Instr, (encode i).map decode = i.commands) ∧
  ∀ bytes : List Byte, recogniseChecksum (encode (.checksum bytes)) = some bytes

/-- 30 R34: encoding what the decoder reads gives the word with an ignored field at its canonical value. -/
def Obligations.EncodeOfDecodeIsTheCanonicalWord : Prop :=
  ∀ w : CommandWord, encode (decode w) = [canonicalWord w]

/-- 42 R61, 30 R34: what is read as one CHECKSUM is its expansion, up to the ignored fields of INIT and FINAL. -/
def Obligations.RecognisedWordsAreTheExpansion : Prop :=
  ∀ (ws : List CommandWord) (bytes : List Byte),
    recogniseChecksum ws = some bytes → ws.map canonicalWord = expand bytes

/-- 30 R34: all 256 words of the `op` of INIT, and all of FINAL's, run alike; the canonical encodings have the field zero. -/
def Obligations.IgnoredFieldChangesNothing : Prop :=
  (∀ (s : State) (w v : CommandWord),
    (w.extractLsb' 8 2 = 0b01#2 ∧ v.extractLsb' 8 2 = 0b01#2) ∨ (w.extractLsb' 8 2 = 0b11#2 ∧ v.extractLsb' 8 2 = 0b11#2) →
      step (s.present w) = step (s.present v)) ∧
  (∀ (s : State) (w : CommandWord) (e : Engine), s.engines[s.addressed]? = some e → e.fault = 0 →
    w.extractLsb' 8 2 = 0b01#2 ∨ (w.extractLsb' 8 2 = 0b11#2 ∧ e.phase.isOpen = true) →
      ∃ t e', step (s.present w) = .next t ∧ t.engines[s.addressed]? = some e' ∧ e'.fault = 0) ∧
  encode .init = [0x100#10] ∧ encode .final = [0x300#10]

/-! ## What each instruction does -/

/-- 41 R53: INIT completes in every phase. -/
def Obligations.InitLoadsTheSeed : Prop :=
  (∀ w : CommandWord, w.extractLsb' 8 2 = 0b01#2 → decode w = .init) ∧
  ∀ (s : State) (e : Engine), s.engines[s.addressed]? = some e → e.fault = 0 →
    exec .init s = .next { s with
      engines := s.engines.set s.addressed { crc := 0xFFFFFFFF, phase := .initialised, fault := 0 } }

/-- 41 R54: UPDATE completes in the open phases and raises ProtocolViolation in the others. -/
def Obligations.UpdateFoldsTheByte : Prop :=
  (∀ w : CommandWord, w.extractLsb' 8 2 = 0b10#2 → decode w = .update (w.extractLsb' 0 8)) ∧
  ∀ (s : State) (e : Engine) (b : Byte), s.engines[s.addressed]? = some e → e.fault = 0 →
    (e.phase = .initialised ∨ e.phase = .accumulating →
      exec (.update b) s = .next { s with
        engines := s.engines.set s.addressed
          { crc := (e.crc <<< 8) ^^^ tableRead (e.crc.extractLsb' 24 8 ^^^ b), phase := .accumulating, fault := 0 } }) ∧
    (e.phase = .idle ∨ e.phase = .finalised →
      exec (.update b) s = .next { s with engines := s.engines.set s.addressed { e with fault := 0b01 } })

/-- 41 R55: FINAL completes in the open phases and raises ProtocolViolation in the others. -/
def Obligations.FinalComplementsTheRegister : Prop :=
  (∀ w : CommandWord, w.extractLsb' 8 2 = 0b11#2 → decode w = .final) ∧
  ∀ (s : State) (e : Engine), s.engines[s.addressed]? = some e → e.fault = 0 →
    (e.phase = .initialised ∨ e.phase = .accumulating →
      exec .final s = .next { s with
        engines := s.engines.set s.addressed { crc := e.crc ^^^ 0xFFFFFFFF#32, phase := .finalised, fault := 0 } }) ∧
    (e.phase = .idle ∨ e.phase = .finalised →
      exec .final s = .next { s with engines := s.engines.set s.addressed { e with fault := 0b01 } })

/-- 30 R33 and 60 R73: every reserved word, in every phase; the engine is then halted. -/
def Obligations.ReservedRaisesIllegalCommand : Prop :=
  (∀ w : CommandWord, w.extractLsb' 8 2 = 0b00#2 → decode w = .reserved (w.extractLsb' 0 8)) ∧
  ∀ (s : State) (e : Engine) (low : Byte), s.engines[s.addressed]? = some e → e.fault = 0 →
    ∃ t, exec (.reserved low) s = .next t ∧
      t = { s with engines := s.engines.set s.addressed { crc := e.crc, phase := e.phase, fault := 0b10 } } ∧
      ∀ i : Instr, exec i t = .next t

/-- 42 R60, R61: CHECKSUM completes in every phase with the checksum of its bytes. -/
def Obligations.ChecksumLeavesTheChecksum : Prop :=
  ∀ (s : State) (e : Engine) (bytes : List Byte), s.engines[s.addressed]? = some e → e.fault = 0 →
    exec (.checksum bytes) s = .next { s with
      engines := s.engines.set s.addressed
        { crc := bytes.foldl update 0xFFFFFFFF#32 ^^^ 0xFFFFFFFF#32, phase := .finalised, fault := 0 } }

/-- 60 R75: while `fault != 0` every command is ignored, and the engine is not in a final state. -/
def Obligations.HaltedEngineIgnoresEveryCommand : Prop :=
  ∀ (s : State) (e : Engine), s.engines[s.addressed]? = some e → e.fault ≠ 0 →
    (∀ i : Instr, exec i s = .next s) ∧ (∀ w : CommandWord, step (s.present w) = .next s) ∧ ¬ e.endedWell

/-- The MODEL'S CHOICE, no rule of the spec (log entry 6): a command for an engine the block does not have stops. -/
def Obligations.CommandForNoEngineStops : Prop :=
  ∀ (i : Instr) (s : State), s.engines.length ≤ s.addressed → exec i s = .fault .noSuchEngine

/-- 10 R19, 60 R81: the frame of every instruction. The table is a constant and no instruction writes memory (20 R20). -/
def Obligations.CommandLeavesTheRestAlone : Prop :=
  ∀ (i : Instr) (s t : State), exec i s = .next t →
    t.host = s.host ∧ t.addressed = s.addressed ∧ t.resets = s.resets ∧ t.engines.length = s.engines.length ∧
    (∀ j, j ≠ s.addressed → t.engines[j]? = s.engines[j]?) ∧
    ∀ e e', s.engines[s.addressed]? = some e → t.engines[s.addressed]? = some e' →
      (e'.fault ≠ e.fault → e'.crc = e.crc ∧ e'.phase = e.phase) ∧
      ((∃ low, i = .reserved low) → e'.crc = e.crc ∧ e'.phase = e.phase)

/-- 60 R72, R73: the faults are raised exactly in the stated cases. -/
def Obligations.FaultsExactlyInTheStatedCases : Prop :=
  ∀ (i : Instr) (s : State) (e : Engine), s.engines[s.addressed]? = some e → e.fault = 0 →
    ∃ t e', exec i s = .next t ∧ t.engines[s.addressed]? = some e' ∧
      (e'.fault = 0b01 ↔ ((∃ b, i = .update b) ∨ i = .final) ∧ (e.phase = .idle ∨ e.phase = .finalised)) ∧
      (e'.fault = 0b10 ↔ ∃ low, i = .reserved low) ∧ e'.fault ≠ 0b11

/-- 60 R74: raising a fault is the whole effect of the faulting command, and its bit is the one of 60 R71. -/
def Obligations.RaiseSetsOnlyTheFaultBit : Prop :=
  (∀ (c : Cause) (e : Engine), e.raise c = { crc := e.crc, phase := e.phase, fault := e.fault ||| c.bit }) ∧
  Cause.protocolViolation.bit = 0b01 ∧ Cause.illegalCommand.bit = 0b10 ∧
  ∀ (i : Instr) (c : Cause) (s : State) (e : Engine),
    s.engines[s.addressed]? = some e → e.fault = 0 → raised e.phase i = some c →
      exec i s = .next { s with engines := s.engines.set s.addressed { e with fault := c.bit } }

/-! ## Steps -/

/-- 30 R37, 20 R28: a step runs the decoded instruction; around `exec` it takes the event off the host's list and notes
the engine it was sent to. -/
def Obligations.StepRunsTheDecodedInstruction : Prop :=
  (∀ (s : State) (k : Nat) (w : CommandWord) (rest : List HostEvent), s.host = .command k w :: rest →
    step s = exec (decode w) { s with host := rest, addressed := k }) ∧
  ∀ (s : State) (nbits w : Nat) (i : Instr), decodeTableWord nbits w = some i →
    step (s.withFetchWord nbits w) = exec i s

/-- 30 R37: decoding by `w[9:8]`, and a step of the machine is `step(S, w)` of the spec's pseudocode on the engine the word
is sent to. -/
def Obligations.StepIsTheStepFunction : Prop :=
  (∀ w : CommandWord,
    (w.extractLsb' 8 2 = 0b00#2 → decode w = .reserved (w.extractLsb' 0 8)) ∧
    (w.extractLsb' 8 2 = 0b01#2 → decode w = .init) ∧
    (w.extractLsb' 8 2 = 0b10#2 → decode w = .update (w.extractLsb' 0 8)) ∧
    (w.extractLsb' 8 2 = 0b11#2 → decode w = .final)) ∧
  ∀ (s : State) (k : Nat) (w : CommandWord) (rest : List HostEvent) (e : Engine),
    s.host = .command k w :: rest → s.engines[k]? = some e →
      step s = .next { engines := s.engines.set k (specStep e w), addressed := k, host := rest, resets := s.resets }

/-- 41 section 3: the transition table of `phase`. -/
def Obligations.PhaseFollowsTheTransitionTable : Prop :=
  ∀ (s : State) (k : Nat) (w : CommandWord) (rest : List HostEvent) (e : Engine),
    s.host = .command k w :: rest → s.engines[k]? = some e → e.fault = 0 →
      ∃ t e', step s = .next t ∧ t.engines[k]? = some e' ∧ e'.phase = phaseAfter e.phase (w.extractLsb' 8 2)

/-- 70 section 6 and R89: the engine never acts on its own. -/
def Obligations.WaitingChangesNothing : Prop :=
  (∀ s : State, s.host = [] → step s = .next s) ∧
  ∀ (s : State) (rest : List HostEvent), s.host = .wait :: rest → step s = .next { s with host := rest }

/-- 70 R85, 10 R17, 60 R81: the reset event. Nothing is said of `crc`, which is unspecified. -/
def Obligations.ResetEventGivesResetEngines : Prop :=
  ∀ (s : State) (rest : List HostEvent), s.host = .reset :: rest →
    ∃ t, step s = .next t ∧ t.host = rest ∧ t.addressed = s.addressed ∧ t.engines.length = s.engines.length ∧
      ∀ e ∈ t.engines, e.phase = .idle ∧ e.fault = 0

/-- 60 R76: no step but a reset changes a halted engine, and a reset clears its fault. -/
def Obligations.OnlyResetClearsFault : Prop :=
  ∀ (s t : State) (k : Nat) (e : Engine), step s = .next t → s.engines[k]? = some e → e.fault ≠ 0 →
    ((∀ rest, s.host ≠ .reset :: rest) → t.engines[k]? = some e) ∧
    ((∃ rest, s.host = .reset :: rest) → ∃ e', t.engines[k]? = some e' ∧ e'.phase = .idle ∧ e'.fault = 0)

/-- 60 R75, R76 over any number of steps: without a reset a halted engine stays as it is. -/
def Obligations.HaltedUntilReset : Prop :=
  ∀ (n : Nat) (s t : State) (k : Nat) (e : Engine),
    runSteps n s = .next t → s.engines[k]? = some e → e.fault ≠ 0 →
      ((s.host.take n).all fun ev => !ev.isReset) = true → t.engines[k]? = some e

/-- 10 R10: `crc` is written by INIT, UPDATE and FINAL on that engine, and by nothing else but reset. -/
def Obligations.CrcHasNoOtherWriter : Prop :=
  ∀ (s t : State) (k : Nat) (e e' : Engine), step s = .next t → s.engines[k]? = some e → t.engines[k]? = some e' →
    e'.crc ≠ e.crc →
      ∃ rest, s.host = .reset :: rest ∨
        ∃ w, s.host = .command k w :: rest ∧ e.fault = 0 ∧
          (decode w = .init ∨ (e.phase.isOpen = true ∧ ((∃ b, decode w = .update b) ∨ decode w = .final)))

/-! ## Reset and the invariant -/

/-- 10 R17: reset, for every number of engines and every `CRC_RESET`. -/
def Obligations.ResetLeavesIdleEngines : Prop :=
  ∀ crcs : List Word,
    (State.afterReset crcs).engines.length = crcs.length ∧
    (∀ e ∈ (State.afterReset crcs).engines, e.phaseOut = 0 ∧ e.faultOut = 0) ∧
    ∀ i : Byte, tableRead i = tableEntry i

/-- 10 R11, R13 at reset: the invariant holds, for every number of engines (at least one) and every `CRC_RESET`. -/
def Obligations.ResetMeetsTheInvariant : Prop :=
  State.reset.Inv ∧ ∀ crcs : List Word, crcs ≠ [] → (State.afterReset crcs).Inv

/-- 10 R11, R13: `fault` is never 3, an INITIALISED register is the seed, and the addressed engine exists: every step
keeps this and the number of engines, from every state that meets it. -/
def Obligations.EveryStepKeepsTheInvariant : Prop :=
  ∀ s t : State, s.Inv → step s = .next t → t.Inv ∧ t.engines.length = s.engines.length

/-- 10 R18, R11: the outputs are plain copies of the state, with the spec's encoding of `phase`. -/
def Obligations.OutputsCopyTheState : Prop :=
  (∀ e : Engine, e.crcOut = e.crc ∧ e.phaseOut = e.phase.bits ∧ e.faultOut = e.fault) ∧
  Phase.idle.bits = 0b00 ∧ Phase.initialised.bits = 0b01 ∧ Phase.accumulating.bits = 0b10 ∧ Phase.finalised.bits = 0b11

/-- 10 R14: the fields of STATUS and its legal values. -/
def Obligations.StatusIsAtMostEleven : Prop :=
  (∀ e : Engine, e.status.extractLsb' 0 2 = e.phase.bits ∧ e.status.getLsbD 2 = e.fault.getLsbD 0 ∧
    e.status.getLsbD 3 = e.fault.getLsbD 1) ∧
  ∀ (s : State) (e : Engine), s.Inv → e ∈ s.engines → e.status.toNat ≤ 11

/-- 10 R17, 93 U4: what `crc` holds in IDLE changes nothing but itself. -/
def Obligations.CrcIsNotReadInIdle : Prop :=
  ∀ s t : State, s.Alike t → OutcomesAlike (step s) (step t)

/-- 70 R87, 60 R72: after reset UPDATE and FINAL fault until INIT, for every `CRC_RESET`. -/
def Obligations.NoUpdateOrFinalBeforeInit : Prop :=
  ∀ (crcs : List Word) (k : Nat) (v : Word) (w : CommandWord), crcs[k]? = some v →
    w.extractLsb' 8 2 = 0b10#2 ∨ w.extractLsb' 8 2 = 0b11#2 →
      ∃ t, step (((State.afterReset crcs).address k).present w) = .next t ∧
        t.engines[k]? = some { crc := v, phase := .idle, fault := 0b01 }

/-! ## The table -/

/-- 40 R42: `bitstep` and its corner cases. -/
def Obligations.BitstepShiftsAndFeedsBack : Prop :=
  (∀ r : Word, bitstep r = if r.getLsbD 31 = true then (r <<< 1) ^^^ 0x04C11DB7#32 else r <<< 1) ∧
  bitstep 0x00000000 = 0x00000000 ∧ bitstep 0x80000000 = 0x04C11DB7 ∧
  bitstep 0xFFFFFFFF = 0xFB3EE249 ∧ bitstep 0x7FFFFFFF = 0xFFFFFFFE

/-- 40 R41: `table_entry` is eight bit steps from `i << 24`, and `T` holds it; the entries of the worked examples. -/
def Obligations.TableEntryIsEightBitSteps : Prop :=
  (∀ i : Byte, tableRead i =
    bitstep (bitstep (bitstep (bitstep (bitstep (bitstep (bitstep (bitstep (i.setWidth 32 <<< 24))))))))) ∧
  tableRead 0x00 = 0x00000000 ∧ tableRead 0x01 = 0x04C11DB7 ∧ tableRead 0x02 = 0x09823B6E ∧
  tableRead 0x80 = 0x690CE0EE ∧ tableRead 0xFF = 0xB1F740B4

/-- 40 R44: the smoke-test values, the corrected one among them (90 C1). -/
def Obligations.TableFixedPoints : Prop :=
  tableRead 0x00 = 0x00000000 ∧ tableRead 0x01 = 0x04C11DB7 ∧ tableRead 0x80 = 0x690CE0EE ∧
  tableRead 0xFF = 0xB1F740B4 ∧ tableRead 0x80 ≠ 0x04C11DB7

/-- 40 R45: the listing is the construction, entry by entry. -/
def Obligations.ListedTableIsTheConstruction : Prop :=
  listedTable.length = 256 ∧ ∀ i : Byte, listedTable[i.toNat]? = some (tableRead i)

/-- 40 R46 item 1: linearity over XOR. -/
def Obligations.TableIsLinear : Prop :=
  (∀ a b : Word, bitstep (a ^^^ b) = bitstep a ^^^ bitstep b) ∧
  (∀ i j : Byte, tableRead (i ^^^ j) = tableRead i ^^^ tableRead j) ∧ tableRead 0 = 0

/-- 40 R46 items 2 and 3: the entries from the power-of-two entries, and the doubling rule. -/
def Obligations.TableFromPowersOfTwo : Prop :=
  (∀ i : Byte, tableRead i = ((List.range 8).filter i.getLsbD).foldl (fun t k => t ^^^ tableRead (1#8 <<< k)) 0) ∧
  (∀ k : Byte, k.toNat < 128 → tableRead (k <<< 1) = bitstep (tableRead k))

/-- 40 R46 item 4: entries, top bytes and bottom bytes are pairwise distinct, and each byte value occurs in both. -/
def Obligations.TableBytesArePermutations : Prop :=
  (∀ i j : Byte, tableRead i = tableRead j → i = j) ∧
  Function.Bijective (fun i : Byte => (tableRead i).extractLsb' 24 8) ∧
  Function.Bijective (fun i : Byte => (tableRead i).extractLsb' 0 8)

/-! ## The pure functions -/

/-- 41 R51: `update` and its corner cases. -/
def Obligations.UpdateIsTheTableFormula : Prop :=
  (∀ (v : Word) (b : Byte),
    update v b = (v <<< 8) ^^^ tableRead ((((v >>> 24) ^^^ b.setWidth 32) &&& 0xFF#32).setWidth 8)) ∧
  update 0x00000000 0x00 = 0x00000000 ∧ (∀ b : Byte, update 0x00000000 b = tableRead b) ∧
  update 0x80000000 0x80 = 0x00000000 ∧ update 0xFFFFFFFF 0xFF = 0xFFFFFF00 ∧
  update 0xFFFFFFFF 0x00 = 0x4E08BFB4 ∧ update 0x12345678 0x9A = 0x7B527556 ∧
  (∀ (v : Word) (b : Byte), (update v b).extractLsb' 0 8 = (tableRead (v.extractLsb' 24 8 ^^^ b)).extractLsb' 0 8)

/-- 41 R57: the datapath of UPDATE, bit by bit. -/
def Obligations.UpdateDatapathBitByBit : Prop :=
  ∀ (v : Word) (b : Byte) (k : Nat),
    (k < 8 → (update v b).getLsbD k = (tableRead (v.extractLsb' 24 8 ^^^ b)).getLsbD k) ∧
    (8 ≤ k ∧ k < 32 →
      (update v b).getLsbD k = (v.getLsbD (k - 8) ^^ (tableRead (v.extractLsb' 24 8 ^^^ b)).getLsbD k))

/-- 41 R58: the table-driven update is eight clocks of the one-bit feedback register. -/
def Obligations.UpdateIsBitSerial : Prop :=
  ∀ (v : Word) (b : Byte), update v b = bitsteps 8 (v ^^^ (b.setWidth 32 <<< 24))

/-- 41 R59: `finalise` is an involution, the command FINAL cannot show it, and `update` is a bijection for a fixed byte. -/
def Obligations.FinaliseInvolutionUpdateBijection : Prop :=
  (∀ v : Word, finalise (finalise v) = v) ∧
  (∀ (s : State) (e : Engine), s.engines[s.addressed]? = some e → e.fault = 0 → e.phase = .finalised →
    ∃ t, exec .final s = .next t ∧ t.engines[s.addressed]? = some { e with fault := 0b01 }) ∧
  ∀ b : Byte, Function.Bijective fun v : Word => update v b

/-- 42 R60: `checksum` is the left fold; its worked example. -/
def Obligations.ChecksumIsTheFold : Prop :=
  (∀ bytes : List Byte, checksum bytes = bytes.foldl update 0xFFFFFFFF#32 ^^^ 0xFFFFFFFF#32) ∧
  checksum [0x20] = 0x29D4F6AB

/-- 42 R64: the empty sequence, as a value and as the two commands. -/
def Obligations.EmptySequenceGivesZero : Prop :=
  checksum [] = 0x00000000 ∧
  ∀ (s : State) (e : Engine) (k : Nat) (rest : List HostEvent), s.engines[k]? = some e → e.fault = 0 →
    s.host = .command k 0x100#10 :: .command k 0x300#10 :: rest →
      ∃ t, runSteps 2 s = .next t ∧ t.engines[k]? = some { crc := 0x00000000, phase := .finalised, fault := 0 }

/-- 42 R65: two-byte checksums are pairwise distinct, so the order of two distinct bytes always shows. -/
def Obligations.TwoByteChecksumsAreDistinct : Prop :=
  (∀ a b c d : Byte, checksum [a, b] = checksum [c, d] → a = c ∧ b = d) ∧
  (∀ a b : Byte, a ≠ b → checksum [a, b] ≠ checksum [b, a]) ∧
  checksum [0x61, 0x62] = 0xE993FDCD ∧ checksum [0x62, 0x61] = 0x963B84C7

/-- 42 R66 rows 1 to 3: the checksums the source states for inputs it gives in full. -/
def Obligations.StatedChecksums : Prop :=
  checksum [] = 0x00000000 ∧ checksum [0x20] = 0x29D4F6AB ∧
  checksum [0x68, 0x65, 0x6C, 0x6C, 0x6F, 0x20, 0x77, 0x6F, 0x72, 0x6C, 0x64] = 0x44F71378

/-- 42 R67, 10 R18: bytes may be given in any grouping; the running register is the complement of the checksum so far;
leading zero bytes count. -/
def Obligations.IncrementalUse : Prop :=
  (∀ (v : Word) (xs ys : List Byte), foldBytes v (xs ++ ys) = foldBytes (foldBytes v xs) ys) ∧
  (∀ xs : List Byte, foldBytes initialise xs = checksum xs ^^^ 0xFFFFFFFF#32) ∧
  checksum [0x00] = 0xB1F7404B ∧ checksum [0x00, 0x00] = 0xFF489B82 ∧ checksum [0xFF] = 0x000000FF

/-! ## Sequences of commands -/

/-- 42 R61: the pseudo-command as the `n + 2` words the host sends to one engine, at every point of it. -/
def Obligations.ChecksumCommandsComputeTheChecksum : Prop :=
  (∀ bytes : List Byte,
    expand bytes = 0x100#10 :: (bytes.map (fun b => 0x200#10 + b.setWidth 10) ++ [0x300#10])) ∧
  ∀ (s : State) (k : Nat) (e : Engine) (bytes : List Byte) (rest : List HostEvent),
    s.engines[k]? = some e → s.host = (expand bytes).map (.command k) ++ rest →
      (e.fault = 0 →
        (∀ xs ys : List Byte, bytes = xs ++ ys →
          runSteps (xs.length + 1) s = .next
            { engines := s.engines.set k
                { crc := foldBytes 0xFFFFFFFF xs, phase := if xs = [] then .initialised else .accumulating, fault := 0 },
              addressed := k, host := (ys.map updateWord ++ [finalWord]).map (.command k) ++ rest,
              resets := s.resets }) ∧
        runSteps (bytes.length + 2) s = .next
          { engines := s.engines.set k { crc := checksum bytes, phase := .finalised, fault := 0 },
            addressed := k, host := rest, resets := s.resets }) ∧
      (e.fault ≠ 0 → runSteps (bytes.length + 2) s = .next { s with addressed := k, host := rest })

/-- 42 R61: the expansion sent word by word and the meaning of CHECKSUM end in the same state. -/
def Obligations.ChecksumIsItsExpansion : Prop :=
  ∀ (s : State) (e : Engine) (bytes : List Byte) (rest : List HostEvent), s.engines[s.addressed]? = some e →
    s.host = (encode (.checksum bytes)).map (.command s.addressed) ++ rest →
      runSteps (bytes.length + 2) s = exec (.checksum bytes) { s with host := rest }

/-- 20 R26 items 2 and 3, 10 R19, 60 R81: each engine ends where its own words alone take it, whatever is sent to the
others and however long the host waits. -/
def Obligations.InterleavingsDoNotMatter : Prop :=
  ∀ (s : State) (evs rest : List HostEvent), s.host = evs ++ rest →
    evs.all (HostEvent.isPlain s.engines.length) = true →
      ∃ t, runSteps evs.length s = .next t ∧ t.host = rest ∧ t.engines.length = s.engines.length ∧
        ∀ (k : Nat) (e : Engine), s.engines[k]? = some e → t.engines[k]? = some ((wordsFor k evs).foldl specStep e)

/-- 70 R90, 10 R18: a computation ends well, with the checksum of its own bytes on `crc_out`, whatever the host does with
the other engines meanwhile. -/
def Obligations.ComputationEndsWithItsChecksum : Prop :=
  ∀ (s : State) (k : Nat) (e : Engine) (evs : List HostEvent) (bytes : List Byte),
    s.engines[k]? = some e → e.fault = 0 → s.host = evs → evs.all (HostEvent.isPlain s.engines.length) = true →
    recogniseChecksum (wordsFor k evs) = some bytes →
      ∃ t e', runSteps evs.length s = .next t ∧ t.engines[k]? = some e' ∧ e'.endedWell ∧
        e'.checksumReady = true ∧ e'.crcOut = checksum bytes

/-- 10 R16, 42 R63: a computation depends on its bytes and on nothing the engine did before. -/
def Obligations.ChecksumForgetsTheHistory : Prop :=
  ∀ (s t : State) (a b : Engine) (bytes : List Byte),
    s.engines[s.addressed]? = some a → a.fault = 0 → t.engines[t.addressed]? = some b → b.fault = 0 →
      ∃ s' t', exec (.checksum bytes) s = .next s' ∧ exec (.checksum bytes) t = .next t' ∧
        s'.engines[s.addressed]? = t'.engines[t.addressed]?

/-! ## The assembler -/

/-- 30 R36: the words each line emits. That an operand out of range is refused is the MODEL'S CHOICE (log entry 11). -/
def Obligations.AssemblerLinesEmitTheirWords : Prop :=
  assembleLine .init = .ok [0x100#10] ∧ assembleLine .final = .ok [0x300#10] ∧
  (∀ n, n < 256 → assembleLine (.update n) = .ok [BitVec.ofNat 10 (0x200 + n)]) ∧
  (∀ n, n < 1024 → assembleLine (.word n) = .ok [BitVec.ofNat 10 n]) ∧
  (∀ n, 256 ≤ n → assembleLine (.update n) = .error .outOfRange) ∧
  (∀ n, 1024 ≤ n → assembleLine (.word n) = .error .outOfRange)

/-- 30 R36, 42 R61: `checksum <bytes>` is the lines `init`, one `update` per byte in order, `final`. When a number is no
byte both are refused: that clause is the MODEL'S CHOICE, no rule of the spec (log entry 11: an operand out of range is
refused, and the whole text with it). -/
def Obligations.AssembledChecksumIsItsLines : Prop :=
  ∀ ns : List Nat,
    assembleLine (.checksum ns) = assemble (.init :: (ns.map .update ++ [.final]))
end

