-- ==== Sys2Proof/Laws/State.lean ====
section
/-! SUPPORT. One lemma per field and update of the state and of an engine, so that no later proof unfolds a record
update. -/

namespace Sys2Proof.Machine

section StateFields
variable (s : State) (e : Engine) (h : List HostEvent) (k : Nat)

@[simp] theorem State.withHost_engines : (s.withHost h).engines = s.engines := rfl
@[simp] theorem State.withHost_addressed : (s.withHost h).addressed = s.addressed := rfl
@[simp] theorem State.withHost_host : (s.withHost h).host = h := rfl
@[simp] theorem State.withHost_resets : (s.withHost h).resets = s.resets := rfl

@[simp] theorem State.address_engines : (s.address k).engines = s.engines := rfl
@[simp] theorem State.address_addressed : (s.address k).addressed = k := rfl
@[simp] theorem State.address_host : (s.address k).host = s.host := rfl
@[simp] theorem State.address_resets : (s.address k).resets = s.resets := rfl

@[simp] theorem State.withEngine_engines : (s.withEngine e).engines = s.engines.set s.addressed e := rfl
@[simp] theorem State.withEngine_addressed : (s.withEngine e).addressed = s.addressed := rfl
@[simp] theorem State.withEngine_host : (s.withEngine e).host = s.host := rfl
@[simp] theorem State.withEngine_resets : (s.withEngine e).resets = s.resets := rfl

@[simp] theorem State.resetEngines_engines : s.resetEngines.engines =
    s.engines.mapIdx fun k _ => Engine.afterReset (Config.crcReset s.resets k) := rfl
@[simp] theorem State.resetEngines_addressed : s.resetEngines.addressed = s.addressed := rfl
@[simp] theorem State.resetEngines_host : s.resetEngines.host = s.host := rfl
@[simp] theorem State.resetEngines_resets : s.resetEngines.resets = s.resets + 1 := rfl

end StateFields

section EngineFields
variable (e : Engine) (c : Cause) (v : Word)

@[simp] theorem Engine.raise_crc : (e.raise c).crc = e.crc := rfl
@[simp] theorem Engine.raise_phase : (e.raise c).phase = e.phase := rfl
@[simp] theorem Engine.raise_fault : (e.raise c).fault = e.fault ||| c.bit := rfl

@[simp] theorem Engine.init_crc : e.init.crc = initialise := rfl
@[simp] theorem Engine.init_phase : e.init.phase = .initialised := rfl
@[simp] theorem Engine.init_fault : e.init.fault = e.fault := rfl

@[simp] theorem Engine.afterReset_crc : (Engine.afterReset v).crc = v := rfl
@[simp] theorem Engine.afterReset_phase : (Engine.afterReset v).phase = .idle := rfl
@[simp] theorem Engine.afterReset_fault : (Engine.afterReset v).fault = 0 := rfl

end EngineFields

section Flags
variable (e : Engine)

/-- The halt check in the spec's words, `fault != 0` (60 R75). -/
@[simp] theorem Engine.halted_iff : e.halted = true ↔ e.fault ≠ 0 := by simp [Engine.halted]

/-- `phase in {INITIALISED, ACCUMULATING}` in the spec's words (41 R54, R55). -/
@[simp] theorem Phase.isOpen_iff (p : Phase) : p.isOpen = true ↔ p = .initialised ∨ p = .accumulating := by
  cases p <;> decide

/-- The phases that are not open are IDLE and FINALISED (60 R72). -/
theorem Phase.not_isOpen_iff (p : Phase) : p.isOpen = false ↔ p = .idle ∨ p = .finalised := by
  cases p <;> decide

/-- A phase is its 2-bit value: no two phases share one (10 R11). -/
theorem Phase.bits_injective {p q : Phase} (h : p.bits = q.bits) : p = q := by
  cases p <;> cases q <;> first | rfl | (exact absurd h (by decide))

end Flags

end Sys2Proof.Machine
end

