-- ==== Sys2Proof/Laws/Ops.lean ====
section
/-! SUPPORT. One lemma per shared operation that says everything it can do; callers cite these and do not unfold. -/

namespace Sys2Proof.Machine

/-- The halt check lets nothing through in a halted engine (60 R75). -/
theorem Engine.unlessHalted_of_fault {e : Engine} (f : Engine → Engine) (h : e.fault ≠ 0) : e.unlessHalted f = e :=
  if_pos (e.halted_iff.mpr h)

/-- The halt check is not in the way in an engine without a fault. -/
theorem Engine.unlessHalted_of_no_fault {e : Engine} (f : Engine → Engine) (h : e.fault = 0) :
    e.unlessHalted f = f e := by
  simp [Engine.unlessHalted, h]

/-- In an open phase the protocol check lets the effect through (41 R54, R55). -/
theorem Engine.whenOpen_of_open {e : Engine} (f : Engine → Engine) (h : e.phase = .initialised ∨ e.phase = .accumulating) :
    e.whenOpen f = f e := by
  simp [Engine.whenOpen, h]

/-- In IDLE and FINALISED the protocol check raises ProtocolViolation (60 R72). -/
theorem Engine.whenOpen_of_closed {e : Engine} (f : Engine → Engine) (h : e.phase = .idle ∨ e.phase = .finalised) :
    e.whenOpen f = e.raise .protocolViolation := by
  simp [Engine.whenOpen, (Phase.not_isOpen_iff e.phase).mpr h]

/-- What one command on the addressed engine answers when that engine exists. -/
theorem onAddressed_of_engine {s : State} {e : Engine} (f : Engine → Engine) (h : s.engines[s.addressed]? = some e) :
    onAddressed f s = .next (s.withEngine (e.unlessHalted f)) := by
  simp [onAddressed, h]

/-- Everything one command on the addressed engine can do when it answers a next state. -/
theorem onAddressed_next {f : Engine → Engine} {s t : State} (h : onAddressed f s = .next t) :
    ∃ e, s.engines[s.addressed]? = some e ∧ t = s.withEngine (e.unlessHalted f) := by
  unfold onAddressed at h
  split at h
  · next e he => exact ⟨e, he, by simpa using h.symm⟩
  · cases h

/-- The frame of one command: the host's list, the addressed number, the reset count, the number of engines and every
engine but the addressed one are as before (10 R19, 60 R81). -/
theorem onAddressed_frame {f : Engine → Engine} {s t : State} (h : onAddressed f s = .next t) :
    t.host = s.host ∧ t.addressed = s.addressed ∧ t.resets = s.resets ∧ t.engines.length = s.engines.length ∧
      ∀ j, j ≠ s.addressed → t.engines[j]? = s.engines[j]? := by
  obtain ⟨e, -, rfl⟩ := onAddressed_next h
  refine ⟨rfl, rfl, rfl, by simp, fun j hj => ?_⟩
  simpa using List.getElem?_set_ne (Ne.symm hj)

/-- Writing back the engine that stands there changes nothing. -/
theorem State.withEngine_self {s : State} {e : Engine} (h : s.engines[s.addressed]? = some e) : s.withEngine e = s := by
  have hset : s.engines.set s.addressed e = s.engines := by
    apply List.ext_getElem?
    intro j
    by_cases hj : s.addressed = j
    · subst hj; rw [List.getElem?_set_self', h]; rfl
    · exact List.getElem?_set_ne hj
  unfold State.withEngine
  rw [hset]

/-- Each engine after the reset event (10 R17, 70 R85). -/
theorem State.resetEngines_getElem? (s : State) (k : Nat) :
    s.resetEngines.engines[k]? = s.engines[k]?.map fun _ => Engine.afterReset (Config.crcReset s.resets k) := by
  simp

/-- The reset event keeps the number of engines. -/
theorem State.resetEngines_length (s : State) : s.resetEngines.engines.length = s.engines.length := by simp

/-- The fold of `update` taken apart at its first byte (42 R60). -/
@[simp] theorem foldBytes_nil (v : Word) : foldBytes v [] = v := rfl

/-- The fold of `update` taken apart at its first byte (42 R60). -/
@[simp] theorem foldBytes_cons (v : Word) (b : Byte) (bs : List Byte) :
    foldBytes v (b :: bs) = foldBytes (update v b) bs := rfl

end Sys2Proof.Machine
end

