-- ==== Sys2Proof/Laws/Commands.lean ====
section
/-! SUPPORT. The operand form and the engine-level effects, one lemma for each case of each. -/

namespace Sys2Proof.Machine

/-- The table index is `crc[31:24] XOR byte` (20 R21): the mask of 00 R7 changes nothing. -/
theorem tableIndex_eq (crc : Word) (byte : Byte) : tableIndex crc byte = crc.extractLsb' 24 8 ^^^ byte := by
  apply BitVec.eq_of_toNat_eq
  have hc := crc.isLt
  have hb := byte.isLt
  have hmask : (0xFF#32).toNat = 2 ^ 8 - 1 := rfl
  simp only [tableIndex, shr32, zext32, BitVec.toNat_setWidth, BitVec.toNat_and, BitVec.toNat_xor,
    BitVec.toNat_ushiftRight, BitVec.extractLsb'_toNat, Nat.shiftRight_eq_div_pow, hmask]
  rw [Nat.and_two_pow_sub_one_eq_mod, Nat.mod_mod, Nat.mod_eq_of_lt (a := byte.toNat) (by omega),
    Nat.mod_eq_of_lt (a := crc.toNat / 2 ^ 24) (by omega)]
  exact Nat.mod_eq_of_lt (Nat.xor_lt_two_pow (by omega) (by omega))

section Effects
variable {e : Engine} (b : Byte)

/-- UPDATE in an open phase (41 R54). -/
theorem Engine.feed_of_open (h : e.phase = .initialised ∨ e.phase = .accumulating) :
    e.feed b = { e with crc := Sys2Proof.Machine.update e.crc b, phase := .accumulating } :=
  Engine.whenOpen_of_open _ h

/-- UPDATE in IDLE or FINALISED (60 R72). -/
theorem Engine.feed_of_closed (h : e.phase = .idle ∨ e.phase = .finalised) : e.feed b = e.raise .protocolViolation :=
  Engine.whenOpen_of_closed _ h

/-- FINAL in an open phase (41 R55). -/
theorem Engine.finish_of_open (h : e.phase = .initialised ∨ e.phase = .accumulating) :
    e.finish = { e with crc := finalise e.crc, phase := .finalised } :=
  Engine.whenOpen_of_open _ h

/-- FINAL in IDLE or FINALISED (60 R72). -/
theorem Engine.finish_of_closed (h : e.phase = .idle ∨ e.phase = .finalised) :
    e.finish = e.raise .protocolViolation :=
  Engine.whenOpen_of_closed _ h

/-- A list of UPDATEs in an engine without a fault and in an open phase: the register is the fold, and the phase is
ACCUMULATING unless the list is empty (42 R61). -/
theorem Engine.feedAll_of_open (bytes : List Byte) (hf : e.fault = 0)
    (h : e.phase = .initialised ∨ e.phase = .accumulating) :
    Engine.feedAll bytes e =
      { e with crc := foldBytes e.crc bytes, phase := if bytes = [] then e.phase else .accumulating } := by
  induction bytes generalizing e with
  | nil => simp [Engine.feedAll]
  | cons b bytes ih =>
    rw [Engine.feedAll, Engine.unlessHalted_of_no_fault _ hf, Engine.feed_of_open _ h]
    simp [ih, hf]

end Effects

end Sys2Proof.Machine
end

