-- ==== Sys2Proof/Laws/PerInstr.lean ====
section
/-! SUPPORT. Statements for all instructions, per constructor. Family `WordCount`: how many words the host presents for an
instruction, one for each command and `n + 2` for CHECKSUM of `n` bytes (spec/42_checksum_sequence.md R61). -/

namespace Sys2Proof

/-- The number of command words of an instruction (30 R35: "every command is exactly one 10-bit word"; 42 R61). -/
def Instr.wordCount : Instr → Nat
  | .init => 1
  | .update _ => 1
  | .final => 1
  | .reserved _ => 1
  | .checksum bytes => bytes.length + 2

/-- The encoder gives exactly that many words. -/
def Laws.WordCount.Statement (i : Instr) : Prop := (encode i).length = i.wordCount

theorem Laws.WordCount.init : Laws.WordCount.Statement .init := rfl

theorem Laws.WordCount.update (byte : Byte) : Laws.WordCount.Statement (.update byte) := rfl

theorem Laws.WordCount.final : Laws.WordCount.Statement .final := rfl

theorem Laws.WordCount.reserved (low : Byte) : Laws.WordCount.Statement (.reserved low) := rfl

theorem Laws.WordCount.checksum (bytes : List Byte) : Laws.WordCount.Statement (.checksum bytes) := by
  simp [Laws.WordCount.Statement, encode, expand, Instr.wordCount]

end Sys2Proof
end

