-- ==== Sys2Proof/Laws/Step.lean ====
section
/-! SUPPORT. What `exec` and `step` can do, said once: every instruction is one effect on the addressed engine, and a step
is one of four cases. -/

namespace Sys2Proof.Machine

/-- The effect of an instruction on the engine it is sent to, when that engine is not halted. -/
def effect : Instr → Engine → Engine
  | .init => Engine.init
  | .update b => Engine.feed b
  | .final => Engine.finish
  | .reserved _ => Engine.raise .illegalCommand
  | .checksum bs => Engine.checksumSequence bs

/-- Every instruction is its effect on the addressed engine, behind the halt check. -/
theorem exec_eq_onAddressed (i : Instr) (s : State) : exec i s = onAddressed (effect i) s := by
  cases i <;> rfl

/-- Everything a step can do when it answers a next state. -/
theorem step_cases {s t : State} (h : step s = .next t) :
    (s.host = [] ∧ t = s) ∨
    (∃ rest, s.host = .wait :: rest ∧ t = s.withHost rest) ∨
    (∃ rest, s.host = .reset :: rest ∧ t = (s.withHost rest).resetEngines) ∨
    (∃ k w rest e, s.host = .command k w :: rest ∧ s.engines[k]? = some e ∧
      t = ((s.withHost rest).address k).withEngine (e.unlessHalted (effect (decode w)))) := by
  unfold step fetch at h
  cases hh : s.host with
  | nil => rw [hh] at h; exact .inl ⟨rfl, by simpa using h.symm⟩
  | cons ev rest =>
    rw [hh] at h
    cases ev with
    | wait => exact .inr (.inl ⟨rest, rfl, by simpa using h.symm⟩)
    | reset => exact .inr (.inr (.inl ⟨rest, rfl, by simpa using h.symm⟩))
    | command k w =>
      simp only [exec_eq_onAddressed] at h
      obtain ⟨e, he, rfl⟩ := onAddressed_next h
      exact .inr (.inr (.inr ⟨k, w, rest, e, rfl, by simpa using he, rfl⟩))

/-- A step that finds a command word for an engine that exists. -/
theorem step_command {s : State} {k : Nat} {w : CommandWord} {rest : List HostEvent} {e : Engine}
    (hh : s.host = .command k w :: rest) (he : s.engines[k]? = some e) :
    step s = .next (((s.withHost rest).address k).withEngine (e.unlessHalted (effect (decode w)))) := by
  simp only [step, fetch, hh, exec_eq_onAddressed]
  exact onAddressed_of_engine _ (by simpa using he)

end Sys2Proof.Machine
end

