-- ==== Sys2Proof/Laws/Run.lean ====
section
/-! SUPPORT. Runs of several steps, taken apart one step at a time. -/

namespace Sys2Proof.Machine

@[simp] theorem runSteps_zero (s : State) : runSteps 0 s = .next s := rfl

/-- The first step of a run that answers a next state. -/
theorem runSteps_succ_of_step {n : Nat} {s t : State} (h : step s = .next t) : runSteps (n + 1) s = runSteps n t := by
  simp [runSteps, h]

/-- A run that ends in a next state has taken a first step to a next state. -/
theorem runSteps_succ_next {n : Nat} {s t : State} (h : runSteps (n + 1) s = .next t) :
    ∃ u, step s = .next u ∧ runSteps n u = .next t := by
  simp only [runSteps] at h
  cases hs : step s with
  | next u => rw [hs] at h; exact ⟨u, rfl, h⟩
  | fault r => rw [hs] at h; cases h
  | refused r => rw [hs] at h; cases h

/-- A run of `m + n` steps whose first `m` answer a next state. -/
theorem runSteps_add {m n : Nat} {s t : State} (h : runSteps m s = .next t) : runSteps (m + n) s = runSteps n t := by
  induction m generalizing s with
  | zero => simp at h; subst h; simp
  | succ m ih =>
    obtain ⟨u, hu, hr⟩ := runSteps_succ_next h
    rw [Nat.add_right_comm, runSteps_succ_of_step hu, ih hr]

/-- The host's run of any machine, by the outcome of its first step. -/
theorem coreRun_succ (M : Host.Core) (n : Nat) (s : M.State) : (∀ t, M.step s = .next t → M.run (n + 1) s = M.run n t) ∧
    (∀ r, M.step s = .fault r → M.run (n + 1) s = .fault r) ∧ ∀ r, M.step s = .refused r → M.run (n + 1) s = .refused r :=
  ⟨fun _ h => by simp [Host.Core.run, h], fun _ h => by simp [Host.Core.run, h], fun _ h => by simp [Host.Core.run, h]⟩

/-- `runSteps` is the host's run of the machine. -/
theorem runSteps_eq_run (n : Nat) (s : State) : runSteps n s = Host.Core.run Sys2Proof.core n s := by
  induction n generalizing s with
  | zero => rfl
  | succ n ih =>
    have hc := coreRun_succ Sys2Proof.core n s
    cases hs : step s with
    | next t => rw [runSteps_succ_of_step hs, ih t]; exact (hc.1 t hs).symm
    | fault r => rw [runSteps, hs]; exact (hc.2.1 r hs).symm
    | refused r => rw [runSteps, hs]; exact (hc.2.2 r hs).symm

end Sys2Proof.Machine
end

