-- ==== Sys2Proof/Tests/Slice0.lean ====
section
/-! SUPPORT. Small tests, each about one word, one value or one step, with expected results from spec/95_test_vectors.md or
spec/30_encoding.md; then one witness for every statement that has hypotheses. -/

open Sys2Proof Sys2Proof.Machine

namespace Sys2Proof.Tests

/-- The next state of an outcome. -/
def answered : Host.Outcome State Fault Refusal → Option State
  | .next s => some s
  | .fault _ => none
  | .refused _ => none

/-- The reason of a fault. -/
def stopped : Host.Outcome State Fault Refusal → Option Fault
  | .next _ => none
  | .fault r => some r
  | .refused _ => none

/-- A block of two engines: engine 0 in the state after reset, engine 1 this one, which is addressed. -/
def block (crc : Word) (phase : Phase) (fault : Field2) : State :=
  { engines := [Engine.afterReset 0x5A5A5A5A, { crc := crc, phase := phase, fault := fault }],
    addressed := 1, host := [], resets := 0 }

/-- Such a block with host events. -/
def driven (crc : Word) (phase : Phase) (fault : Field2) (h : List HostEvent) : State :=
  (block crc phase fault).withHost h

/-! ## Well-formedness: each check refuses an ill-formed term -/

theorem test_wf_update_range : (Line.update 256).wellFormed = false ∧ (Line.update 255).wellFormed = true := by decide
theorem test_wf_word_range : (Line.word 1024).wellFormed = false ∧ (Line.word 1023).wellFormed = true := by decide
theorem test_wf_checksum_range :
    (Line.checksum [0, 256]).wellFormed = false ∧ (Line.checksum [0, 255]).wellFormed = true := by decide
theorem test_wf_pseudo_has_no_word : (Instr.checksum []).oneWord = false ∧ Instr.init.oneWord = true := by decide

/-! ## Decoding: one word of each family, bit by bit from the patterns of 30 section 7 -/

theorem test_decode_reserved : decode 0b0000000101 = .reserved 0x05 := by decide
theorem test_decode_init : decode 0b0100000000 = .init := by decide
theorem test_decode_update : decode 0b1000100000 = .update 0x20 := by decide
theorem test_decode_final : decode 0b1100000000 = .final := by decide
theorem test_expand_ab : expand [0x61, 0x62] = [0b0100000000, 0b1001100001, 0b1001100010, 0b1100000000] := by decide
theorem test_table_word : decodeTableWord 16 0x2FF = some (.update 0xFF) ∧ decodeTableWord 16 0x400 = none := by decide

/-! ## Values (95 sections 2.1 to 2.4; 40 R41) -/

theorem test_bitstep : bitstep 0x84C11DB7 = 0x0D4326D9 ∧ bitstep 0x80000001 = 0x04C11DB5 := by decide
theorem test_table : tableRead 0x55 = 0x6F52C06C ∧ tableRead 0x80 = 0x690CE0EE ∧ tableRead 0xDF = 0x29D4F654 := by decide
theorem test_update_vectors : update 0xDEADBEEF 0x42 = 0xBDAF4FFA ∧ update 0xFFFFFF00 0xFF = 0xFFFF0000 := by decide
theorem test_finalise : finalise 0x0000FFFF = 0xFFFF0000 := by decide
theorem test_checksum_123456789 :
    checksum [0x31, 0x32, 0x33, 0x34, 0x35, 0x36, 0x37, 0x38, 0x39] = 0xFC891918 := by decide

/-- The candidate text of 95 section 1.5 (general knowledge, 93 G2), in pieces. -/
def lorem : List Byte :=
  ["Lorem ipsum dolor sit amet, consectetur adipiscing elit, sed do eiusmod tempor incididunt ",
    "ut labore et dolore magna aliqua. Ut enim ad minim veniam, quis nostrud exercitation ullam",
    "co laboris nisi ut aliquip ex ea commodo consequat. Duis aute irure dolor in reprehenderit",
    " in voluptate velit esse cillum dolore eu fugiat nulla pariatur. Excepteur sint occaecat c",
    "upidatat non proident, sunt in culpa qui officia deserunt mollit anim id est laborum."].flatMap fun t => t.toList.map fun c => BitVec.ofNat 8 c.toNat

theorem test_checksum_lorem : lorem.length = 445 ∧ checksum lorem = 0xD31DE6C9 := by decide +kernel

/-! ## One instruction on one state (95 section 2.6) -/

theorem test_init_in_finalised :
    answered (exec .init (block 0x29D4F6AB .finalised 0)) = some (block 0xFFFFFFFF .initialised 0) := by decide
theorem test_init_halted :
    answered (exec .init (block 0x29D4F6AB .finalised 1)) = some (block 0x29D4F6AB .finalised 1) := by decide
theorem test_update_folds :
    answered (exec (.update 0x20) (block 0xFFFFFFFF .initialised 0)) = some (block 0xD62B0954 .accumulating 0) := by decide
theorem test_update_in_finalised :
    answered (exec (.update 0x20) (block 0x29D4F6AB .finalised 0)) = some (block 0x29D4F6AB .finalised 1) := by decide
theorem test_final_complements :
    answered (exec .final (block 0xD62B0954 .accumulating 0)) = some (block 0x29D4F6AB .finalised 0) := by decide
theorem test_final_twice :
    answered (exec .final (block 0x29D4F6AB .finalised 0)) = some (block 0x29D4F6AB .finalised 1) := by decide
theorem test_reserved_in_accumulating :
    answered (exec (.reserved 0x20) (block 0xD62B0954 .accumulating 0)) = some (block 0xD62B0954 .accumulating 2) := by
  decide
theorem test_reserved_halted :
    answered (exec (.reserved 0) (block 0x29D4F6AB .idle 1)) = some (block 0x29D4F6AB .idle 1) := by decide
theorem test_checksum_space :
    answered (exec (.checksum [0x20]) (block 0x12345678 .idle 0)) = some (block 0x29D4F6AB .finalised 0) := by decide
theorem test_checksum_halted :
    answered (exec (.checksum [0x20]) (block 0x9EFBCF93 .accumulating 2)) = some (block 0x9EFBCF93 .accumulating 2) := by
  decide
theorem test_status : (Engine.status { crc := 0, phase := .finalised, fault := 1 }).toNat = 7 ∧
    (Engine.status { crc := 0, phase := .accumulating, fault := 2 }).toNat = 10 := by decide

/-! ## One step -/

theorem test_step_noncanonical_init :
    answered (step (driven 0x29D4F6AB .finalised 0 [.command 1 0x1AB, .wait])) =
      some (driven 0xFFFFFFFF .initialised 0 [.wait]) := by decide
theorem test_step_first_after_reset :
    (answered (step (State.reset.withFetchWord 16 0x100))).map (·.engines) =
      some [{ crc := 0xFFFFFFFF, phase := .initialised, fault := 0 }] := by decide
theorem test_step_other_engine :
    (answered (step (driven 0xD62B0954 .accumulating 0 [.command 0 0x220]))).map (·.engines) =
      some [{ crc := 0x5A5A5A5A, phase := .idle, fault := 1 }, { crc := 0xD62B0954, phase := .accumulating, fault := 0 }] := by
  decide
theorem test_step_reset :
    (answered (step (driven 0x29D4F6AB .finalised 1 [.reset]))).map (fun s => s.engines.map fun e => (e.phase, e.fault)) =
      some [(.idle, 0), (.idle, 0)] := by rfl
theorem test_step_no_such_engine :
    stopped (step (driven 0 .idle 0 [.command 2 0x100])) = some .noSuchEngine := by decide

/-! ## The assembler (30 R36; 95 section 3) -/

theorem test_asm_program_P9 :
    (assembleText ".word 0x1AB ; INIT\nupdate 0x20\n\n  .word 1023\nfinal").toOption = some [0x1AB, 0x220, 0x3FF, 0x300] := by
  decide
theorem test_asm_checksum_string :
    (assembleText "checksum \"ab\"").toOption = some [0x100, 0x261, 0x262, 0x300] ∧
    (assembleText "checksum 0x61, 'b'").toOption = some [0x100, 0x261, 0x262, 0x300] ∧
    (assembleText "checksum \"\"").toOption = some [0x100, 0x300] := by decide
theorem test_asm_refuses :
    (assembleText "update 256").toOption = none ∧ (assembleText "INIT").toOption = none ∧
    (assembleText "init 1").toOption = none ∧ (assembleText "checksum").toOption = none := by decide
/-- The model's choice, log entry 11: a quote is parted from the word before it by a blank. -/
theorem test_asm_blank_before_quote :
    lex .gap "update'h'".toList = .error .badToken ∧ lex .gap "checksum\"ab\"".toList = .error .badToken ∧
    (assembleText "update 'h'").toOption = some [0x268] := ⟨rfl, rfl, rfl⟩

/-- The model's choice, log entry 11: a string gives one byte for each character (here U+00E9), and a character above 255
(here U+20AC) is refused. -/
theorem test_asm_string_bytes :
    charCodes [Char.ofNat 0x61, Char.ofNat 0xE9] = .ok [0x61, 0xE9] ∧ charCodes [Char.ofNat 0x20AC] = .error .badToken :=
  ⟨rfl, rfl⟩

/-! ## Witnesses: the hypotheses of each statement, met together by a concrete state and operands -/

theorem witness_EveryWordDecodesByItsOpField :
    (0x0FF#10).toNat ≤ 0x0FF ∧ (0x100 ≤ (0x100#10).toNat ∧ (0x1FF#10).toNat ≤ 0x1FF) ∧
    (0x200 ≤ (0x200#10).toNat ∧ (0x2FF#10).toNat ≤ 0x2FF) ∧ 0x300 ≤ (0x300#10).toNat := by decide
theorem witness_DecodeOfEncodeGivesTheInstruction :
    Instr.init.oneWord = true ∧ (Instr.update 0xFF).oneWord = true ∧ Instr.final.oneWord = true ∧
    (Instr.reserved 0xFF).oneWord = true := by decide
theorem witness_RecognisedWordsAreTheExpansion : recogniseChecksum [0x1AB, 0x220, 0x3FF] = some [0x20] := by decide
theorem witness_IgnoredFieldChangesNothing :
    (0x100#10).extractLsb' 8 2 = 0b01#2 ∧ (0x1FF#10).extractLsb' 8 2 = 0b01#2 ∧
    (0x300#10).extractLsb' 8 2 = 0b11#2 ∧ (0x3FF#10).extractLsb' 8 2 = 0b11#2 ∧
    (block 7 .initialised 0).engines[(block 7 .initialised 0).addressed]? = some ⟨7, .initialised, 0⟩ ∧
    Phase.initialised.isOpen = true := by decide
theorem witness_InitLoadsTheSeed :
    (0x1FF#10).extractLsb' 8 2 = 0b01#2 ∧
    (block 7 .idle 0).engines[(block 7 .idle 0).addressed]? = some ⟨7, .idle, 0⟩ := by decide
theorem witness_UpdateFoldsTheByte_open :
    (0x2FF#10).extractLsb' 8 2 = 0b10#2 ∧
    (block 7 .initialised 0).engines[(block 7 .initialised 0).addressed]? = some ⟨7, .initialised, 0⟩ ∧
    (block 7 .accumulating 0).engines[(block 7 .accumulating 0).addressed]? = some ⟨7, .accumulating, 0⟩ := by decide
theorem witness_UpdateFoldsTheByte_closed :
    (block 7 .idle 0).engines[(block 7 .idle 0).addressed]? = some ⟨7, .idle, 0⟩ ∧
    (block 7 .finalised 0).engines[(block 7 .finalised 0).addressed]? = some ⟨7, .finalised, 0⟩ := by decide
theorem witness_FinalComplementsTheRegister_open :
    (0x3FF#10).extractLsb' 8 2 = 0b11#2 ∧
    (block 7 .initialised 0).engines[(block 7 .initialised 0).addressed]? = some ⟨7, .initialised, 0⟩ ∧
    (block 7 .accumulating 0).engines[(block 7 .accumulating 0).addressed]? = some ⟨7, .accumulating, 0⟩ := by decide
theorem witness_FinalComplementsTheRegister_closed :
    (block 7 .idle 0).engines[(block 7 .idle 0).addressed]? = some ⟨7, .idle, 0⟩ ∧
    (block 7 .finalised 0).engines[(block 7 .finalised 0).addressed]? = some ⟨7, .finalised, 0⟩ := by decide
theorem witness_ReservedRaisesIllegalCommand :
    (0x0FF#10).extractLsb' 8 2 = 0b00#2 ∧
    (block 7 .accumulating 0).engines[(block 7 .accumulating 0).addressed]? = some ⟨7, .accumulating, 0⟩ := by decide
theorem witness_ChecksumLeavesTheChecksum :
    (block 7 .idle 0).engines[(block 7 .idle 0).addressed]? = some ⟨7, .idle, 0⟩ := by decide
theorem witness_HaltedEngineIgnoresEveryCommand :
    (block 7 .finalised 2).engines[(block 7 .finalised 2).addressed]? = some ⟨7, .finalised, 2⟩ ∧ (2 : Field2) ≠ 0 := by
  decide
theorem witness_CommandForNoEngineStops :
    ((block 7 .idle 0).address 2).engines.length ≤ ((block 7 .idle 0).address 2).addressed := by decide
theorem witness_CommandLeavesTheRestAlone_fault :
    answered (exec (.update 0) (block 7 .idle 0)) = some (block 7 .idle 1) ∧ (1 : Field2) ≠ 0 ∧ 0 ≠ (block 7 .idle 0).addressed := by
  decide
theorem witness_CommandLeavesTheRestAlone_reserved :
    answered (exec (.reserved 0xFF) (block 7 .accumulating 0)) = some (block 7 .accumulating 2) := by decide
theorem witness_FaultsExactlyInTheStatedCases :
    (block 7 .finalised 0).engines[(block 7 .finalised 0).addressed]? = some ⟨7, .finalised, 0⟩ := by decide
theorem witness_RaiseSetsOnlyTheFaultBit :
    (block 7 .finalised 0).engines[(block 7 .finalised 0).addressed]? = some ⟨7, .finalised, 0⟩ ∧
    raised .finalised .final = some .protocolViolation ∧ raised .finalised (.reserved 0) = some .illegalCommand := by decide
theorem witness_StepRunsTheDecodedInstruction :
    (driven 7 .idle 0 [.command 1 0x2FF, .wait]).host = .command 1 0x2FF :: [.wait] ∧
    decodeTableWord 10 0x3FF = some .final := by decide
theorem witness_StepIsTheStepFunction :
    (0x0FF#10).extractLsb' 8 2 = 0b00#2 ∧ (0x1FF#10).extractLsb' 8 2 = 0b01#2 ∧ (0x2FF#10).extractLsb' 8 2 = 0b10#2 ∧
    (0x3FF#10).extractLsb' 8 2 = 0b11#2 ∧
    (driven 7 .idle 0 [.command 1 0x2FF]).host = .command 1 0x2FF :: [] ∧
    (driven 7 .idle 0 [.command 1 0x2FF]).engines[1]? = some ⟨7, .idle, 0⟩ := by decide
theorem witness_PhaseFollowsTheTransitionTable :
    (driven 7 .accumulating 0 [.command 1 0x300]).host = .command 1 0x300 :: [] ∧
    (driven 7 .accumulating 0 [.command 1 0x300]).engines[1]? = some ⟨7, .accumulating, 0⟩ := by decide
theorem witness_WaitingChangesNothing :
    (driven 7 .idle 0 []).host = [] ∧ (driven 7 .idle 0 [.wait, .reset]).host = .wait :: [.reset] := by decide
theorem witness_ResetEventGivesResetEngines :
    (driven 7 .finalised 1 [.reset, .wait]).host = .reset :: [.wait] := by decide
theorem witness_OnlyResetClearsFault_other :
    answered (step (driven 7 .idle 1 [.command 1 0x100])) = some (driven 7 .idle 1 []) ∧
    (driven 7 .idle 1 [.command 1 0x100]).engines[1]? = some ⟨7, .idle, 1⟩ := by decide
theorem witness_OnlyResetClearsFault_reset :
    (answered (step (driven 7 .idle 1 [.reset]))).isSome = true ∧
    (driven 7 .idle 1 [.reset]).engines[1]? = some ⟨7, .idle, 1⟩ := by decide
theorem witness_HaltedUntilReset :
    answered (runSteps 2 (driven 7 .idle 1 [.command 1 0x100, .command 0 0x000, .reset])) =
      some { engines := [⟨0x5A5A5A5A, .idle, 2⟩, ⟨7, .idle, 1⟩], addressed := 0, host := [.reset], resets := 0 } ∧
    (((driven 7 .idle 1 [.command 1 0x100, .command 0 0x000, .reset]).host.take 2).all fun ev => !ev.isReset) = true := by
  decide
theorem witness_CrcHasNoOtherWriter :
    answered (step (driven 7 .accumulating 0 [.command 1 0x300])) = some (driven 0xFFFFFFF8 .finalised 0 []) ∧
    (0xFFFFFFF8#32) ≠ 7 := by decide
theorem witness_ResetLeavesIdleEngines :
    Engine.afterReset 9 ∈ (State.afterReset [8, 9]).engines := by decide
theorem witness_ResetMeetsTheInvariant : ([8, 9] : List Word) ≠ [] := by decide
theorem witness_EveryStepKeepsTheInvariant :
    (driven 7 .accumulating 0 [.command 1 0x100]).Inv ∧
    answered (step (driven 7 .accumulating 0 [.command 1 0x100])) = some (driven 0xFFFFFFFF .initialised 0 []) := by
  constructor
  · refine ⟨by decide, ?_⟩
    simp [driven, block, Engine.ok, Engine.afterReset]
  · decide
theorem witness_StatusIsAtMostEleven :
    (block 7 .finalised 2).Inv ∧ Engine.mk 7 .finalised 2 ∈ (block 7 .finalised 2).engines := by
  constructor
  · refine ⟨by decide, ?_⟩
    simp [block, Engine.ok, Engine.afterReset]
  · decide
theorem witness_CrcIsNotReadInIdle :
    (driven 7 .idle 0 [.command 1 0x220]).Alike (driven 8 .idle 0 [.command 1 0x220]) :=
  ⟨.cons (.inl rfl) (.cons (.inr ⟨rfl, rfl, rfl⟩) .nil), rfl, rfl, rfl⟩
theorem witness_NoUpdateOrFinalBeforeInit :
    ([8, 9] : List Word)[1]? = some 9 ∧ (0x2FF#10).extractLsb' 8 2 = 0b10#2 ∧ (0x300#10).extractLsb' 8 2 = 0b11#2 := by
  decide
theorem witness_TableFromPowersOfTwo : (127 : Byte).toNat < 128 := by decide
theorem witness_TableBytesArePermutations : tableRead 0xFF = tableRead (0x0F ^^^ 0xF0) := by decide
theorem witness_UpdateDatapathBitByBit : (7 < 8) ∧ (8 ≤ 8 ∧ 8 < 32) ∧ (8 ≤ 31 ∧ 31 < 32) := by decide
theorem witness_FinaliseInvolutionUpdateBijection :
    (block 7 .finalised 0).engines[(block 7 .finalised 0).addressed]? = some ⟨7, .finalised, 0⟩ := by decide
theorem witness_EmptySequenceGivesZero :
    (driven 7 .accumulating 0 [.command 1 0x100, .command 1 0x300]).engines[1]? = some ⟨7, .accumulating, 0⟩ ∧
    (driven 7 .accumulating 0 [.command 1 0x100, .command 1 0x300]).host =
      .command 1 0x100#10 :: .command 1 0x300#10 :: [] := by decide
theorem witness_TwoByteChecksumsAreDistinct :
    checksum [0x61, 0x62] = checksum [0x60 ^^^ 0x01, 0x62] ∧ (0x61 : Byte) ≠ 0x62 := by decide
theorem witness_ChecksumCommandsComputeTheChecksum_run :
    (driven 7 .finalised 0 [.command 1 0x100, .command 1 0x261, .command 1 0x300, .wait]).host =
      (expand [0x61]).map (.command 1) ++ [.wait] ∧
    (driven 7 .finalised 0 []).engines[1]? = some ⟨7, .finalised, 0⟩ ∧ ([0x61] : List Byte) = [0x61] ++ [] := by decide
theorem witness_ChecksumCommandsComputeTheChecksum_halted :
    (driven 7 .finalised 1 [.command 1 0x100, .command 1 0x300]).host = (expand []).map (.command 1) ++ [] ∧
    (driven 7 .finalised 1 []).engines[1]? = some ⟨7, .finalised, 1⟩ ∧ (1 : Field2) ≠ 0 := by decide
theorem witness_ChecksumIsItsExpansion :
    (driven 7 .idle 0 [.command 1 0x100, .command 1 0x300, .wait]).host =
      (encode (.checksum [])).map (.command 1) ++ [.wait] ∧ (driven 7 .idle 0 []).addressed = 1 ∧
    (driven 7 .idle 0 []).engines[1]? = some ⟨7, .idle, 0⟩ := by decide
theorem witness_InterleavingsDoNotMatter :
    (driven 7 .idle 0 [.command 0 0x100, .wait, .command 1 0x100, .reset]).host =
      [.command 0 0x100, .wait, .command 1 0x100] ++ [.reset] ∧
    ([.command 0 0x100, .wait, .command 1 0x100] : List HostEvent).all (HostEvent.isPlain 2) = true ∧
    (driven 7 .idle 0 []).engines.length = 2 ∧ (driven 7 .idle 0 []).engines[1]? = some ⟨7, .idle, 0⟩ := by decide
theorem witness_ComputationEndsWithItsChecksum :
    recogniseChecksum (wordsFor 1 [.command 1 0x1AB, .command 0 0x100, .command 1 0x220, .wait, .command 1 0x300]) =
      some [0x20] ∧
    ([.command 1 0x1AB, .command 0 0x100, .command 1 0x220, .wait, .command 1 0x300] : List HostEvent).all
      (HostEvent.isPlain (driven 7 .idle 0 []).engines.length) = true ∧
    (driven 7 .idle 0 []).engines[1]? = some ⟨7, .idle, 0⟩ := by decide
theorem witness_ChecksumForgetsTheHistory :
    (block 7 .finalised 0).engines[(block 7 .finalised 0).addressed]? = some ⟨7, .finalised, 0⟩ ∧
    State.reset.engines[State.reset.addressed]? = some ⟨0, .idle, 0⟩ := by decide
theorem witness_AssemblerLinesEmitTheirWords : 255 < 256 ∧ 1023 < 1024 ∧ 256 ≤ 256 ∧ 1024 ≤ 1024 := by decide

end Sys2Proof.Tests
end

/-! # The architectural state (spec/10_state.md)

First what one command can do to one engine, said once (`effect_cases`), and what follows of that for the invariant and
for engines in IDLE; then the statements of this family. -/

namespace Sys2Proof.Machine

/-! ## What one command can do to one engine -/

section OneEngine
variable {e : Engine}

/-- The halt check keeps a halted engine as it is, or lets the command through (60 R75). -/
theorem Engine.unlessHalted_cases (f : Engine → Engine) (e : Engine) :
    (e.fault ≠ 0 ∧ e.unlessHalted f = e) ∨ (e.fault = 0 ∧ e.unlessHalted f = f e) := by
  by_cases hf : e.fault = 0
  · exact .inr ⟨hf, Engine.unlessHalted_of_no_fault f hf⟩
  · exact .inl ⟨hf, Engine.unlessHalted_of_fault f hf⟩

/-- A phase is open, or it is IDLE or FINALISED (10 R11). -/
theorem Phase.open_or_closed (p : Phase) : (p = .initialised ∨ p = .accumulating) ∨ (p = .idle ∨ p = .finalised) := by
  cases p <;> decide

/-- CHECKSUM in an engine without a fault leaves a state that its bytes alone determine (10 R16, 42 R61). -/
theorem Engine.checksumSequence_of_no_fault (bytes : List Byte) (hf : e.fault = 0) :
    e.checksumSequence bytes = { crc := checksum bytes, phase := .finalised, fault := 0 } := by
  have hfeed : Engine.feedAll bytes e.init =
      { crc := foldBytes initialise bytes, phase := if bytes = [] then .initialised else .accumulating, fault := 0 } := by
    simp [Engine.feedAll_of_open bytes (e := e.init) hf (.inl rfl), hf]
  have hopen : (if bytes = [] then Phase.initialised else .accumulating) = .initialised ∨
      (if bytes = [] then Phase.initialised else .accumulating) = .accumulating := by
    by_cases hb : bytes = [] <;> simp [hb]
  rw [Engine.checksumSequence, Engine.unlessHalted_of_no_fault _ hf, hfeed, Engine.unlessHalted_of_no_fault _ rfl,
    Engine.finish_of_open hopen]
  rfl

/-- Everything an instruction can do to an engine without a fault: raise the fault of 60 R72 or R73 and nothing else, or
complete with the effect of 41 R53, R54, R55 or 42 R61. -/
theorem effect_cases (i : Instr) (hf : e.fault = 0) :
    (∃ c, raised e.phase i = some c ∧ effect i e = e.raise c) ∨
    (i = .init ∧ effect i e = { crc := initialise, phase := .initialised, fault := 0 }) ∨
    (∃ b, i = .update b ∧ e.phase.isOpen = true ∧
      effect i e = { crc := update e.crc b, phase := .accumulating, fault := 0 }) ∨
    (i = .final ∧ e.phase.isOpen = true ∧ effect i e = { crc := finalise e.crc, phase := .finalised, fault := 0 }) ∨
    (∃ bs, i = .checksum bs ∧ effect i e = { crc := checksum bs, phase := .finalised, fault := 0 }) := by
  cases i with
  | init => exact .inr (.inl ⟨rfl, by simp [effect, Engine.init, hf]⟩)
  | update b =>
    obtain hopen | hclosed := Phase.open_or_closed e.phase
    · exact .inr (.inr (.inl ⟨b, rfl, by simpa using hopen, by simp [effect, Engine.feed_of_open b hopen, hf]⟩))
    · exact .inl ⟨.protocolViolation, by simp [raised, hclosed], Engine.feed_of_closed b hclosed⟩
  | final =>
    obtain hopen | hclosed := Phase.open_or_closed e.phase
    · exact .inr (.inr (.inr (.inl ⟨rfl, by simpa using hopen, by simp [effect, Engine.finish_of_open hopen, hf]⟩)))
    · exact .inl ⟨.protocolViolation, by simp [raised, hclosed], Engine.finish_of_closed hclosed⟩
  | reserved low => exact .inl ⟨.illegalCommand, rfl, rfl⟩
  | checksum bs => exact .inr (.inr (.inr (.inr ⟨bs, rfl, Engine.checksumSequence_of_no_fault bs hf⟩)))

/-- A command that changes `fault` changes nothing else of its engine (60 R74). -/
theorem effect_fault_changed (i : Instr) (hf : e.fault = 0) (hne : (effect i e).fault ≠ e.fault) :
    (effect i e).crc = e.crc ∧ (effect i e).phase = e.phase := by
  obtain ⟨c, -, he⟩ | ⟨-, he⟩ | ⟨b, -, -, he⟩ | ⟨-, -, he⟩ | ⟨bs, -, he⟩ := effect_cases i hf
  · simp [he]
  all_goals exact absurd (by rw [he, hf]) hne

/-- Raising one fault in an engine without a fault never gives the value 3 (10 R13). -/
theorem Engine.raise_fault_ne_three (c : Cause) (hf : e.fault = 0) : (e.raise c).fault ≠ 3 := by
  cases c <;> simp [hf, Cause.bit]

/-- Every command keeps what is always true of an engine: `fault` is never 3, and in INITIALISED `crc` is the seed
(10 R11, R13). -/
theorem Engine.ok_unlessHalted_effect (i : Instr) (hok : e.ok) : (e.unlessHalted (effect i)).ok := by
  obtain ⟨-, hu⟩ | ⟨hf, hu⟩ := Engine.unlessHalted_cases (effect i) e
  · rwa [hu]
  rw [hu]
  have hzero : (0 : Field2) ≠ 3 := by decide
  obtain ⟨c, -, he⟩ | ⟨-, he⟩ | ⟨b, -, -, he⟩ | ⟨-, -, he⟩ | ⟨bs, -, he⟩ := effect_cases i hf
  · rw [he]; exact ⟨Engine.raise_fault_ne_three c hf, hok.2⟩
  · rw [he]; exact ⟨hzero, fun _ => rfl⟩
  all_goals rw [he]; exact ⟨hzero, nofun⟩

/-- An engine right after reset is as every engine always is, whatever its `crc` (10 R17). -/
theorem Engine.ok_afterReset (v : Word) : (Engine.afterReset v).ok := ⟨by simp, nofun⟩

end OneEngine

/-! ## Engines and states that differ in `crc` in IDLE only -/

/-- In two engines in IDLE with no fault every command has effects that are alike: INIT and CHECKSUM do not read `crc`,
the other commands raise the same fault and leave it alone (10 R17). -/
theorem Engine.Alike.effect_of_idle {a b : Engine} (i : Instr) (ha : a.phase = .idle) (hb : b.phase = .idle)
    (hfa : a.fault = 0) (hfb : b.fault = 0) : (effect i a).Alike (effect i b) := by
  have hraise (c : Cause) : (a.raise c).Alike (b.raise c) := .inr ⟨ha, hb, by simp [hfa, hfb]⟩
  cases i with
  | init => exact .inl (by simp [effect, Engine.init, hfa, hfb])
  | update byte =>
    simp only [effect, Engine.feed_of_closed byte (.inl ha), Engine.feed_of_closed byte (.inl hb)]
    exact hraise _
  | final =>
    simp only [effect, Engine.finish_of_closed (.inl ha), Engine.finish_of_closed (.inl hb)]
    exact hraise _
  | reserved low => exact hraise _
  | checksum bs =>
    exact .inl ((Engine.checksumSequence_of_no_fault bs hfa).trans (Engine.checksumSequence_of_no_fault bs hfb).symm)

/-- A command keeps engines alike (10 R17). -/
theorem Engine.Alike.unlessHalted_effect {a b : Engine} (i : Instr) (h : a.Alike b) :
    (a.unlessHalted (effect i)).Alike (b.unlessHalted (effect i)) := by
  obtain rfl | ⟨ha, hb, hf⟩ := h
  · exact .inl rfl
  by_cases hfa : a.fault = 0
  · rw [Engine.unlessHalted_of_no_fault _ hfa, Engine.unlessHalted_of_no_fault _ (hf ▸ hfa)]
    exact Engine.Alike.effect_of_idle i ha hb hfa (hf ▸ hfa)
  · rw [Engine.unlessHalted_of_fault _ hfa, Engine.unlessHalted_of_fault _ (hf ▸ hfa)]
    exact .inr ⟨ha, hb, hf⟩

/-- Engines that stand at the same number in lists alike are alike, or both numbers are past the end. -/
theorem Engine.alike_getElem? {xs ys : List Engine} (h : List.Forall₂ Engine.Alike xs ys) (k : Nat) :
    (xs[k]? = none ∧ ys[k]? = none) ∨ ∃ a b, xs[k]? = some a ∧ ys[k]? = some b ∧ a.Alike b := by
  induction h generalizing k with
  | nil => exact .inl ⟨rfl, rfl⟩
  | cons hab _ ih =>
    cases k with
    | zero => exact .inr ⟨_, _, rfl, rfl, hab⟩
    | succ k => simpa using ih k

/-- Writing engines that are alike to the same number keeps lists alike. -/
theorem Engine.alike_set {xs ys : List Engine} {a b : Engine} (h : List.Forall₂ Engine.Alike xs ys) (k : Nat)
    (hab : a.Alike b) : List.Forall₂ Engine.Alike (xs.set k a) (ys.set k b) := by
  induction h generalizing k with
  | nil => exact .nil
  | cons hxy hrest ih =>
    cases k with
    | zero => exact .cons hab hrest
    | succ k => exact .cons hxy (ih k)

section AlikeStates
variable {s t : State}

/-- One instruction in two states that are alike. -/
theorem State.Alike.exec (h : s.Alike t) (i : Instr) : OutcomesAlike (exec i s) (exec i t) := by
  obtain ⟨hengines, haddressed, hhost, hresets⟩ := h
  rw [exec_eq_onAddressed, exec_eq_onAddressed]
  obtain ⟨hs, ht⟩ | ⟨a, b, hs, ht, hab⟩ := Engine.alike_getElem? hengines s.addressed
  · rw [haddressed] at ht
    simp [onAddressed, hs, ht, OutcomesAlike]
  · have hset := Engine.alike_set hengines s.addressed (hab.unlessHalted_effect i)
    rw [haddressed] at ht
    rw [onAddressed_of_engine _ hs, onAddressed_of_engine _ ht]
    exact ⟨by simpa [← haddressed] using hset, haddressed, hhost, hresets⟩

/-- Replacing the host's list keeps states alike. -/
theorem State.Alike.withHost (h : s.Alike t) (rest : List HostEvent) : (s.withHost rest).Alike (t.withHost rest) :=
  let ⟨hengines, haddressed, _, hresets⟩ := h
  ⟨hengines, haddressed, rfl, hresets⟩

/-- Addressing the same engine keeps states alike. -/
theorem State.Alike.address (h : s.Alike t) (k : Nat) : (s.address k).Alike (t.address k) :=
  let ⟨hengines, _, hhost, hresets⟩ := h
  ⟨hengines, rfl, hhost, hresets⟩

/-- The reset event keeps states alike: it reads no engine (70 R85). -/
theorem State.Alike.resetEngines (h : s.Alike t) : s.resetEngines.Alike t.resetEngines := by
  obtain ⟨hengines, haddressed, hhost, hresets⟩ := h
  have hsame : s.resetEngines.engines = t.resetEngines.engines := by
    apply List.ext_getElem (by simp [hengines.length_eq])
    intro k _ _
    simp [hresets]
  refine ⟨?_, haddressed, hhost, by simp [hresets]⟩
  rw [hsame]
  exact List.forall₂_same.mpr fun e _ => .inl rfl

/-- One step from two states that are alike, by the host's next event (10 R17, 93 U4). -/
theorem State.Alike.step (h : s.Alike t) : OutcomesAlike (step s) (step t) := by
  have ⟨_, _, hhost, _⟩ := h
  unfold Machine.step fetch
  rw [← hhost]
  cases s.host with
  | nil => exact h
  | cons ev rest =>
    cases ev with
    | wait => exact h.withHost rest
    | reset => exact (h.withHost rest).resetEngines
    | command k w => exact ((h.withHost rest).address k).exec (decode w)

end AlikeStates

/-! ## The engine written back, and the words of the decoder -/

/-- The addressed engine after it was replaced. -/
theorem State.withEngine_getElem?_addressed {s : State} {e : Engine} (a : Engine)
    (h : s.engines[s.addressed]? = some e) : (s.withEngine a).engines[s.addressed]? = some a := by
  simp [(List.getElem?_eq_some_iff.mp h).1]

/-- No command word decodes to CHECKSUM (42, opening: it has no encoding of its own). -/
theorem decode_ne_checksum (w : CommandWord) (bs : List Byte) : decode w ≠ .checksum bs := by
  unfold decode
  split <;> nofun

/-! ## The invariant, state by state -/

/-- The reset state meets the invariant, for every non-empty list of `CRC_RESET` values (10 R17). -/
theorem State.inv_afterReset {crcs : List Word} (h : crcs ≠ []) : (State.afterReset crcs).Inv := by
  refine ⟨by simpa [State.afterReset] using List.length_pos_iff.mpr h, fun e he => ?_⟩
  obtain ⟨v, -, rfl⟩ := List.mem_map.mp he
  exact Engine.ok_afterReset v

/-- Taking events off the host's list keeps the invariant. -/
theorem State.Inv.withHost {s : State} (h : s.Inv) (rest : List HostEvent) : (s.withHost rest).Inv := h

/-- The reset event keeps the invariant (70 R85). -/
theorem State.Inv.resetEngines {s : State} (h : s.Inv) : s.resetEngines.Inv := by
  refine ⟨by simpa using h.1, fun e he => ?_⟩
  obtain ⟨k, hk, rfl⟩ := List.mem_mapIdx.mp he
  exact Engine.ok_afterReset _

/-- A command to an engine that exists keeps the invariant. -/
theorem State.Inv.command {s : State} {k : Nat} {e : Engine} (h : s.Inv) (i : Instr) (rest : List HostEvent)
    (he : s.engines[k]? = some e) :
    (((s.withHost rest).address k).withEngine (e.unlessHalted (effect i))).Inv := by
  have hok : e.ok := h.2 e (List.mem_of_getElem? he)
  refine ⟨by simpa using (List.getElem?_eq_some_iff.mp he).1, fun e' he' => ?_⟩
  obtain hold | rfl := List.mem_or_eq_of_mem_set he'
  · exact h.2 e' hold
  · exact Engine.ok_unlessHalted_effect i hok

/-- Every step keeps the invariant, by the host's event. -/
theorem State.Inv.step {s t : State} (h : s.Inv) (hstep : step s = .next t) : t.Inv := by
  obtain ⟨-, rfl⟩ | ⟨rest, -, rfl⟩ | ⟨rest, -, rfl⟩ | ⟨k, w, rest, e, -, he, rfl⟩ := step_cases hstep
  · exact h
  · exact h.withHost rest
  · exact (h.withHost rest).resetEngines
  · exact h.command (decode w) rest he

/-- Every step keeps the number of engines. -/
theorem step_engines_length {s t : State} (hstep : step s = .next t) : t.engines.length = s.engines.length := by
  obtain ⟨-, rfl⟩ | ⟨rest, -, rfl⟩ | ⟨rest, -, rfl⟩ | ⟨k, w, rest, e, -, -, rfl⟩ := step_cases hstep
  all_goals simp

/-! ## STATUS -/

/-- STATUS as a number: `phase` in bits 1:0, `fault` above it (10 R14). -/
theorem Engine.status_toNat (e : Engine) : e.status.toNat = e.fault.toNat * 4 + e.phase.bits.toNat := by
  have hphase := e.phase.bits.isLt
  rw [Engine.status, Engine.faultOut, Engine.phaseOut, BitVec.toNat_append,
    ← Nat.shiftLeft_add_eq_or_of_lt hphase, Nat.shiftLeft_eq]

/-- An engine whose `fault` is not 3 has a STATUS of at most 11 (10 R13, R14). -/
theorem Engine.status_le_eleven {e : Engine} (h : e.fault ≠ 3) : e.status.toNat ≤ 11 := by
  have hfault : e.fault.toNat ≠ 3 := fun h3 => h (BitVec.eq_of_toNat_eq h3)
  have hfault' := e.fault.isLt
  have hphase := e.phase.bits.isLt
  have hstatus := e.status_toNat
  omega

/-! ## The statements -/

/-- Settles O27: reset, waits and commands each keep the invariant. -/
theorem everyStepKeepsTheInvariant : Obligations.EveryStepKeepsTheInvariant :=
  fun _ _ hinv hstep => ⟨hinv.step hstep, step_engines_length hstep⟩

/-- Settles O14: the frame of the other engines is `onAddressed_frame`; on the addressed engine a command that is not
ignored changes `fault` or the rest, never both. -/
theorem commandLeavesTheRestAlone : Obligations.CommandLeavesTheRestAlone := by
  intro i s t hexec
  rw [exec_eq_onAddressed] at hexec
  obtain ⟨hhost, haddressed, hresets, hlength, hothers⟩ := onAddressed_frame hexec
  refine ⟨hhost, haddressed, hresets, hlength, hothers, fun e e' he he' => ?_⟩
  obtain ⟨e₀, he₀, rfl⟩ := onAddressed_next hexec
  obtain rfl : e₀ = e := Option.some.inj (he₀.symm.trans he)
  obtain rfl : e₀.unlessHalted (effect i) = e' :=
    Option.some.inj ((State.withEngine_getElem?_addressed _ he).symm.trans he')
  obtain ⟨-, hu⟩ | ⟨hf, hu⟩ := Engine.unlessHalted_cases (effect i) e₀
  · simp [hu]
  · rw [hu]
    refine ⟨effect_fault_changed i hf, ?_⟩
    rintro ⟨low, rfl⟩
    exact ⟨rfl, rfl⟩

/-- Settles O24: of the host's events only a reset, or a word for this very engine that is neither ignored (60 R75) nor
raises a fault (60 R74), can change `crc`. -/
theorem crcHasNoOtherWriter : Obligations.CrcHasNoOtherWriter := by
  intro s t k e e' hstep he he' hcrc
  have hchanged : t.engines[k]? ≠ s.engines[k]? := fun hsame =>
    hcrc (congrArg Engine.crc (Option.some.inj (he'.symm.trans (hsame.trans he))))
  obtain ⟨-, rfl⟩ | ⟨rest, -, rfl⟩ | ⟨rest, hhost, rfl⟩ | ⟨j, w, rest, e₀, hhost, he₀, rfl⟩ := step_cases hstep
  · exact absurd rfl hchanged
  · exact absurd rfl hchanged
  · exact ⟨rest, .inl hhost⟩
  · obtain rfl : j = k := by
      by_contra hjk
      exact hchanged (List.getElem?_set_ne hjk)
    obtain rfl : e₀ = e := Option.some.inj (he₀.symm.trans he)
    obtain rfl : e₀.unlessHalted (effect (decode w)) = e' :=
      Option.some.inj ((State.withEngine_getElem?_addressed (s := (s.withHost rest).address j) _ he).symm.trans he')
    obtain ⟨-, hu⟩ | ⟨hf, hu⟩ := Engine.unlessHalted_cases (effect (decode w)) e₀
    · exact absurd (by rw [hu]) hcrc
    refine ⟨rest, .inr ⟨w, hhost, hf, ?_⟩⟩
    obtain ⟨c, -, heff⟩ | ⟨hd, -⟩ | ⟨b, hd, hopen, -⟩ | ⟨hd, hopen, -⟩ | ⟨bs, hd, -⟩ := effect_cases (decode w) hf
    · exact absurd (by rw [hu, heff, Engine.raise_crc]) hcrc
    · exact .inl hd
    · exact .inr ⟨hopen, .inl ⟨b, hd⟩⟩
    · exact .inr ⟨hopen, .inr hd⟩
    · exact absurd hd (decode_ne_checksum w bs)

/-- Settles O29: the layout is the one of appending `fault` to `phase`, the bound comes from `fault ≠ 3`. -/
theorem statusIsAtMostEleven : Obligations.StatusIsAtMostEleven := by
  refine ⟨fun e => ⟨?_, ?_, ?_⟩, fun s e hinv he => Engine.status_le_eleven (hinv.2 e he).1⟩
  · exact BitVec.extractLsb'_append_eq_right
  · exact BitVec.getLsbD_append
  · exact BitVec.getLsbD_append

/-- Settles O30: each event of the host keeps states alike. -/
theorem crcIsNotReadInIdle : Obligations.CrcIsNotReadInIdle :=
  fun _ _ halike => halike.step

/-- Settles O52: CHECKSUM leaves a state of its engine that its bytes alone determine. -/
theorem checksumForgetsTheHistory : Obligations.ChecksumForgetsTheHistory := by
  intro s t a b bytes ha hfa hb hfb
  simp only [exec_eq_onAddressed, onAddressed_of_engine _ ha, onAddressed_of_engine _ hb]
  refine ⟨_, _, rfl, rfl, ?_⟩
  rw [State.withEngine_getElem?_addressed _ ha, State.withEngine_getElem?_addressed _ hb,
    Engine.unlessHalted_of_no_fault _ hfa, Engine.unlessHalted_of_no_fault _ hfb, effect,
    Engine.checksumSequence_of_no_fault bytes hfa, Engine.checksumSequence_of_no_fault bytes hfb]

/-- Settles O25: every engine of the reset state is an `Engine.afterReset`. -/
theorem resetLeavesIdleEngines : Obligations.ResetLeavesIdleEngines := by
  refine fun crcs => ⟨by simp [State.afterReset], fun e he => ?_, fun _ => rfl⟩
  obtain ⟨v, -, rfl⟩ := List.mem_map.mp he
  exact ⟨rfl, rfl⟩

/-- Settles O26: `State.reset` is the reset state of a one-element list of `CRC_RESET` values. -/
theorem resetMeetsTheInvariant : Obligations.ResetMeetsTheInvariant :=
  ⟨State.inv_afterReset (by decide), fun _ h => State.inv_afterReset h⟩

/-- Settles O28: the outputs and the encoding of `phase` are as 10 R18 and R11 write them. -/
theorem outputsCopyTheState : Obligations.OutputsCopyTheState :=
  ⟨fun _ => ⟨rfl, rfl, rfl⟩, rfl, rfl, rfl, rfl⟩

end Sys2Proof.Machine

/-! # The streams of command words (spec/20_memory.md)

A step of the machine is `step(S, w)` of 30 R37 on the engine the word is sent to (`step_command_specStep`); so each engine
follows its own words through any list of commands and waits. -/

namespace Sys2Proof.Machine

/-! ## The decoder and the spec's step function -/

/-- The decoder by the `op` field, as 30 R37 writes its `case w[9:8]`. -/
theorem decode_cases (w : CommandWord) :
    (w.extractLsb' 8 2 = 0b00#2 ∧ decode w = .reserved (w.extractLsb' 0 8)) ∨
    (w.extractLsb' 8 2 = 0b01#2 ∧ decode w = .init) ∨
    (w.extractLsb' 8 2 = 0b10#2 ∧ decode w = .update (w.extractLsb' 0 8)) ∨
    (w.extractLsb' 8 2 = 0b11#2 ∧ decode w = .final) := by
  have hop : ∀ op : Field2, op = 0b00#2 ∨ op = 0b01#2 ∨ op = 0b10#2 ∨ op = 0b11#2 := by decide
  obtain h | h | h | h := hop (w.extractLsb' 8 2)
  · exact .inl ⟨h, by simp [decode, opField, h, byteField]⟩
  · exact .inr (.inl ⟨h, by simp [decode, opField, h]⟩)
  · exact .inr (.inr (.inl ⟨h, by simp [decode, opField, h, byteField]⟩))
  · exact .inr (.inr (.inr ⟨h, by simp [decode, opField, h]⟩))

/-- IDLE and FINALISED are not open: the guard of UPDATE and FINAL in 30 R37 fails. -/
theorem Phase.not_open_of_closed {p : Phase} (h : p = .idle ∨ p = .finalised) :
    ¬ (p = .initialised ∨ p = .accumulating) := by
  rw [← Phase.isOpen_iff, (Phase.not_isOpen_iff p).mpr h]
  exact Bool.false_ne_true

/-- The effect of a decoded word behind the halt check is `step(S, w)` of 30 R37. -/
theorem Engine.unlessHalted_effect_decode (e : Engine) (w : CommandWord) :
    e.unlessHalted (effect (decode w)) = specStep e w := by
  obtain ⟨hf, hu⟩ | ⟨hf, hu⟩ := Engine.unlessHalted_cases (effect (decode w)) e
  · rw [hu, specStep, if_pos hf]
  rw [hu]
  obtain ⟨hop, hd⟩ | ⟨hop, hd⟩ | ⟨hop, hd⟩ | ⟨hop, hd⟩ := decode_cases w
  · simp [specStep, hf, hop, hd, effect, Engine.raise, Cause.bit]
  · simp [specStep, hf, hop, hd, effect, Engine.init, initialise, seed]
  · obtain hopen | hclosed := Phase.open_or_closed e.phase
    · simp [specStep, hf, hop, hd, effect, Engine.feed_of_open _ hopen, hopen]
    · simp [specStep, hf, hop, hd, effect, Engine.feed_of_closed _ hclosed, Phase.not_open_of_closed hclosed,
        Engine.raise, Cause.bit]
  · obtain hopen | hclosed := Phase.open_or_closed e.phase
    · simp [specStep, hf, hop, hd, effect, Engine.finish_of_open hopen, hopen, finalise, not32]
    · simp [specStep, hf, hop, hd, effect, Engine.finish_of_closed hclosed, Phase.not_open_of_closed hclosed,
        Engine.raise, Cause.bit]

/-- A step that finds a command word for an engine that exists, by the spec's step function (30 R37). -/
theorem step_command_specStep {s : State} {k : Nat} {w : CommandWord} {rest : List HostEvent} {e : Engine}
    (hh : s.host = .command k w :: rest) (he : s.engines[k]? = some e) :
    step s = .next (((s.withHost rest).address k).withEngine (specStep e w)) := by
  rw [step_command hh he, Engine.unlessHalted_effect_decode]

/-- A step that finds a wait takes it off the host's list and does nothing else (70 R89). -/
theorem step_wait {s : State} {rest : List HostEvent} (hh : s.host = .wait :: rest) :
    step s = .next (s.withHost rest) := by
  simp [step, fetch, hh]

/-! ## The words of one engine in an interleaving -/

/-- The words for one engine in a list of events, taken apart at its first event. -/
theorem wordsFor_cons (k : Nat) (ev : HostEvent) (evs : List HostEvent) :
    wordsFor k (ev :: evs) = wordsFor k [ev] ++ wordsFor k evs := by
  cases ev with
  | command j w => by_cases hjk : j = k <;> simp [wordsFor, hjk]
  | reset => rfl
  | wait => rfl

/-- One command for an existing engine, or one wait: every engine takes the words of that event that are for it, at most
one (10 R19, 60 R81). -/
theorem step_isPlain {s : State} {ev : HostEvent} {rest : List HostEvent} (hh : s.host = ev :: rest)
    (hplain : ev.isPlain s.engines.length = true) :
    ∃ t, step s = .next t ∧ t.host = rest ∧ t.engines.length = s.engines.length ∧
      ∀ (k : Nat) (e : Engine), s.engines[k]? = some e → t.engines[k]? = some ((wordsFor k [ev]).foldl specStep e) := by
  cases ev with
  | reset => cases hplain
  | wait => exact ⟨_, step_wait hh, rfl, rfl, fun _ _ he => he⟩
  | command j w =>
    have hj : j < s.engines.length := by simpa [HostEvent.isPlain] using hplain
    refine ⟨_, step_command_specStep hh (List.getElem?_eq_getElem hj), rfl, by simp, fun k e he => ?_⟩
    by_cases hjk : j = k
    · subst hjk
      obtain rfl : s.engines[j] = e := Option.some.inj ((List.getElem?_eq_getElem hj).symm.trans he)
      simp [wordsFor, hj]
    · simp [wordsFor, hjk, he]

/-! ## The statement -/

/-- Settles O50, by induction on the list of events: `step_isPlain` for the first, and the words of the whole list are those
of the first event followed by those of the rest. -/
theorem interleavingsDoNotMatter : Obligations.InterleavingsDoNotMatter := by
  intro s evs rest hhost hplain
  induction evs generalizing s with
  | nil => exact ⟨s, rfl, hhost, rfl, fun _ _ he => he⟩
  | cons ev evs ih =>
    rw [List.all_cons, Bool.and_eq_true_iff] at hplain
    obtain ⟨hev, hevs⟩ := hplain
    obtain ⟨u, hstep, huhost, hulength, huengines⟩ := step_isPlain hhost hev
    obtain ⟨t, hrun, hthost, htlength, htengines⟩ := ih u huhost (hulength ▸ hevs)
    refine ⟨t, (runSteps_succ_of_step hstep).trans hrun, hthost, htlength.trans hulength, fun k e he => ?_⟩
    rw [wordsFor_cons, List.foldl_append]
    exact htengines k _ (huengines k e he)

end Sys2Proof.Machine

/-! # The encoding (spec/30_encoding.md)

The two fields of a command word and what the decoder reads from them; encoder and decoder as inverses of each other; what
a presented word does; the assembler's lines. Then the statements of this family. -/

namespace Sys2Proof.Machine

/-! ## The fields of a command word -/

section Fields
variable (op : Field2) (b : Byte) {w : CommandWord}

/-- The `op` field of a word put together from its fields (30 R30). -/
@[simp] theorem commandWord_op : (commandWord op b).extractLsb' 8 2 = op := BitVec.extractLsb'_append_eq_left

/-- The `byte` field of a word put together from its fields (30 R30). -/
@[simp] theorem commandWord_byte : (commandWord op b).extractLsb' 0 8 = b := BitVec.extractLsb'_append_eq_right

/-- A word is put together from its own fields (30 R30). -/
theorem commandWord_fields (w : CommandWord) : commandWord (w.extractLsb' 8 2) (w.extractLsb' 0 8) = w :=
  BitVec.extractLsb'_append_extractLsb'

/-- The word as a number, `op * 256 + byte` (30 R30). -/
theorem commandWord_toNat : (commandWord op b).toNat = op.toNat * 256 + b.toNat := by
  rw [commandWord, BitVec.toNat_append, ← Nat.shiftLeft_add_eq_or_of_lt b.isLt, Nat.shiftLeft_eq]

variable {op} in
/-- The `op` field from the word as a number: each value owns 256 consecutive words (30 R31). -/
theorem op_eq_of_toNat (h : w.toNat / 256 = op.toNat) : w.extractLsb' 8 2 = op := by
  apply BitVec.eq_of_toNat_eq
  have hop := op.isLt
  rw [BitVec.extractLsb'_toNat, Nat.shiftRight_eq_div_pow, show 2 ^ 8 = 256 from rfl, h]
  exact Nat.mod_eq_of_lt hop

/-- The `byte` field of a word above 0x1FF is what stands above 0x200, modulo 256 (30 R31). -/
theorem byte_eq_ofNat_sub (h : 0x200 ≤ w.toNat) : w.extractLsb' 0 8 = BitVec.ofNat 8 (w.toNat - 0x200) := by
  apply BitVec.eq_of_toNat_eq
  rw [BitVec.extractLsb'_toNat, BitVec.toNat_ofNat, Nat.shiftRight_zero]
  omega

/-- The word of UPDATE is `0x200 + byte` (30 R31). -/
theorem updateWord_eq_add : updateWord b = 0x200#10 + b.setWidth 10 := by
  apply BitVec.eq_of_toNat_eq
  have hb := b.isLt
  have hop : (0b10 : Field2).toNat = 2 := rfl
  have hbase : (0x200#10).toNat = 0x200 := rfl
  rw [updateWord, commandWord_toNat, BitVec.toNat_add, BitVec.toNat_setWidth, hop, hbase]
  omega

/-- The word of UPDATE with an operand written as a number in range (30 R36). -/
theorem updateWord_ofNat {n : Nat} (h : n < 256) : updateWord (BitVec.ofNat 8 n) = BitVec.ofNat 10 (0x200 + n) := by
  rw [updateWord_eq_add, BitVec.setWidth_ofNat_of_le_of_lt (by decide) h, BitVec.ofNat_add]

end Fields

/-! ## The decoder on the words of each `op`, and on the words of the encoder -/

section Decoder
variable {w : CommandWord}

/-- 30 R37, `case 0b00`. -/
theorem decode_of_op_reserved (h : w.extractLsb' 8 2 = 0b00#2) : decode w = .reserved (w.extractLsb' 0 8) := by
  simp [decode, opField, h, byteField]

/-- 30 R37, `case 0b01`. -/
theorem decode_of_op_init (h : w.extractLsb' 8 2 = 0b01#2) : decode w = .init := by
  simp [decode, opField, h]

/-- 30 R37, `case 0b10`. -/
theorem decode_of_op_update (h : w.extractLsb' 8 2 = 0b10#2) : decode w = .update (w.extractLsb' 0 8) := by
  simp [decode, opField, h, byteField]

/-- 30 R37, `case 0b11`. -/
theorem decode_of_op_final (h : w.extractLsb' 8 2 = 0b11#2) : decode w = .final := by
  simp [decode, opField, h]

@[simp] theorem decode_initWord : decode initWord = .init := decode_of_op_init (commandWord_op _ _)

@[simp] theorem decode_updateWord (b : Byte) : decode (updateWord b) = .update b :=
  (decode_of_op_update (commandWord_op _ b)).trans (congrArg Instr.update (commandWord_byte _ b))

@[simp] theorem decode_finalWord : decode finalWord = .final := decode_of_op_final (commandWord_op _ _)

@[simp] theorem decode_reservedWord (low : Byte) : decode (commandWord 0b00#2 low) = .reserved low :=
  (decode_of_op_reserved (commandWord_op _ low)).trans (congrArg Instr.reserved (commandWord_byte _ low))

/-- The decoder undoes the encoder, word by word (30 R31, 42 R61). -/
theorem map_decode_encode (i : Instr) : (encode i).map decode = i.commands := by
  cases i with
  | init => simp [encode, Instr.commands]
  | update b => simp [encode, Instr.commands]
  | final => simp [encode, Instr.commands]
  | reserved low => simp [encode, Instr.commands]
  | checksum bytes => simp [encode, expand, Instr.commands]

/-- An instruction that is one word stands for itself alone. -/
theorem commands_of_oneWord {i : Instr} (h : i.oneWord = true) : i.commands = [i] := by
  cases i with
  | checksum bytes => cases h
  | _ => rfl

/-- The encoder undoes the decoder, up to an ignored field (30 R34). -/
theorem encode_decode (w : CommandWord) : encode (decode w) = [canonicalWord w] := by
  have hfields := commandWord_fields w
  obtain ⟨hop, hd⟩ | ⟨hop, hd⟩ | ⟨hop, hd⟩ | ⟨hop, hd⟩ := decode_cases w
  · rw [hop] at hfields
    simp [hd, encode, canonicalWord, opField, hop, hfields]
  · simp [hd, encode, canonicalWord, opField, hop]
  · rw [hop] at hfields
    simp [hd, encode, canonicalWord, opField, hop, updateWord, hfields]
  · simp [hd, encode, canonicalWord, opField, hop]

/-- What a word decodes to fixes its canonical word (30 R34). -/
theorem canonicalWord_of_decode {v : CommandWord} {i : Instr} (hw : decode w = i) (hv : encode i = [v]) :
    canonicalWord w = v := by
  rw [← hw, encode_decode] at hv
  exact List.head_eq_of_cons_eq hv

end Decoder

/-! ## Lists of words read as one CHECKSUM -/

section Sequences
variable {w : CommandWord} {ws : List CommandWord} {bytes : List Byte}

/-- What is read as UPDATE words up to a closing FINAL, by its first word (42 R61). -/
theorem updatesThenFinal_cons (h : updatesThenFinal (w :: ws) = some bytes) :
    (∃ b rest, decode w = .update b ∧ updatesThenFinal ws = some rest ∧ bytes = b :: rest) ∨
    (decode w = .final ∧ ws = [] ∧ bytes = []) := by
  unfold updatesThenFinal at h
  split at h
  · next b hd =>
    obtain ⟨rest, hrest, rfl⟩ := Option.map_eq_some_iff.mp h
    exact .inl ⟨b, rest, hd, hrest, rfl⟩
  · next hd =>
    split at h
    · next hempty => exact .inr ⟨hd, List.isEmpty_iff.mp hempty, (Option.some.inj h).symm⟩
    · cases h
  · cases h

/-- What is read as one CHECKSUM is an INIT word, then UPDATE words up to a closing FINAL (42 R61). -/
theorem recogniseChecksum_some (h : recogniseChecksum ws = some bytes) :
    ∃ w rest, ws = w :: rest ∧ decode w = .init ∧ updatesThenFinal rest = some bytes := by
  cases ws with
  | nil => cases h
  | cons w rest =>
    simp only [recogniseChecksum] at h
    split at h
    · next hd => exact ⟨w, rest, rfl, hd, h⟩
    · cases h

/-- The UPDATE words of a list of bytes and FINAL give the bytes back (42 R61). -/
theorem updatesThenFinal_updateWords (bytes : List Byte) :
    updatesThenFinal (bytes.map updateWord ++ [finalWord]) = some bytes := by
  induction bytes with
  | nil => simp [updatesThenFinal]
  | cons b bytes ih => simp [updatesThenFinal, ih]

/-- The expansion of CHECKSUM gives its bytes back (42 R61). -/
theorem recogniseChecksum_expand (bytes : List Byte) : recogniseChecksum (expand bytes) = some bytes := by
  simp [recogniseChecksum, expand, updatesThenFinal_updateWords]

/-- Words read as UPDATEs up to a closing FINAL are, up to FINAL's ignored field, those the bytes expand to (30 R34). -/
theorem map_canonicalWord_of_updatesThenFinal (h : updatesThenFinal ws = some bytes) :
    ws.map canonicalWord = bytes.map updateWord ++ [finalWord] := by
  induction ws generalizing bytes with
  | nil => cases h
  | cons w ws ih =>
    obtain ⟨b, rest, hd, hrest, rfl⟩ | ⟨hd, rfl, rfl⟩ := updatesThenFinal_cons h
    · simp [canonicalWord_of_decode hd rfl, ih hrest]
    · simp [canonicalWord_of_decode hd rfl]

end Sequences

/-! ## What a presented word does -/

/-- A step that finds a command word for any engine number runs the decoded instruction (30 R37, 20 R28). -/
theorem step_of_command {s : State} {k : Nat} {w : CommandWord} {rest : List HostEvent}
    (hh : s.host = .command k w :: rest) : step s = exec (decode w) ((s.withHost rest).address k) := by
  simp only [step, fetch, hh]

/-- A presented word is run by the next step, in the state it was presented to. -/
theorem step_present (s : State) (w : CommandWord) : step (s.present w) = exec (decode w) s :=
  step_of_command rfl

/-- A table word with a meaning is a command word, and that word is decoded (log entry 9). -/
theorem decodeTableWord_some {nbits w : Nat} {i : Instr} (h : decodeTableWord nbits w = some i) :
    decode (BitVec.ofNat 10 w) = i := by
  unfold decodeTableWord at h
  split at h
  · exact Option.some.inj h
  · cases h

/-- An addressed engine that is halted ignores every instruction (60 R75). -/
theorem exec_of_fault {s : State} {e : Engine} (i : Instr) (he : s.engines[s.addressed]? = some e) (hf : e.fault ≠ 0) :
    exec i s = .next s := by
  rw [exec_eq_onAddressed, onAddressed_of_engine _ he, Engine.unlessHalted_of_fault _ hf, State.withEngine_self he]

/-- An addressed engine without a fault takes the effect of the instruction. -/
theorem exec_of_no_fault {s : State} {e : Engine} (i : Instr) (he : s.engines[s.addressed]? = some e)
    (hf : e.fault = 0) : exec i s = .next (s.withEngine (effect i e)) := by
  rw [exec_eq_onAddressed, onAddressed_of_engine _ he, Engine.unlessHalted_of_no_fault _ hf]

/-! ## The lines of the assembler -/

/-- A line whose operands are in range emits its words (30 R36). -/
theorem assembleLine_of_wellFormed {l : Line} (h : l.wellFormed = true) : assembleLine l = .ok (Line.words l) := if_pos h

/-- A line with an operand out of range is refused (log entry 11). -/
theorem assembleLine_of_not_wellFormed {l : Line} (h : ¬ l.wellFormed = true) : assembleLine l = .error .outOfRange :=
  if_neg h

/-- A list of lines emits the words of its lines in order, and is refused when one of them is (30 R36, log entry 11). -/
theorem assemble_eq (ls : List Line) :
    assemble ls = if ls.all Line.wellFormed then .ok (ls.flatMap Line.words) else .error .outOfRange := by
  induction ls with
  | nil => rfl
  | cons l ls ih =>
    rw [assemble, ih]
    by_cases hl : l.wellFormed = true
    · rw [assembleLine_of_wellFormed hl]
      by_cases hls : ls.all Line.wellFormed = true <;> simp [hl, hls]
    · simp [assembleLine_of_not_wellFormed hl, hl]

/-! ## The statements -/

/-- Settles O3: the decoder undoes the encoder on each word; the sequence by induction on its bytes. -/
theorem decodeOfEncodeGivesTheInstruction : Obligations.DecodeOfEncodeGivesTheInstruction :=
  ⟨fun i h => (map_decode_encode i).trans (commands_of_oneWord h), map_decode_encode, recogniseChecksum_expand⟩

/-- Settles O5: the first word is an INIT word, the others by induction on the list. -/
theorem recognisedWordsAreTheExpansion : Obligations.RecognisedWordsAreTheExpansion := by
  intro ws bytes h
  obtain ⟨w, rest, rfl, hd, hrest⟩ := recogniseChecksum_some h
  rw [List.map_cons, canonicalWord_of_decode hd rfl, map_canonicalWord_of_updatesThenFinal hrest, expand]

/-- Settles O6: two INIT words, and two FINAL words, decode to the same instruction, which keeps a fault of 0 in the stated
phases. -/
theorem ignoredFieldChangesNothing : Obligations.IgnoredFieldChangesNothing := by
  refine ⟨fun s w v h => ?_, fun s w e he hf h => ?_, rfl, rfl⟩
  · obtain ⟨hw, hv⟩ | ⟨hw, hv⟩ := h
    · rw [step_present, step_present, decode_of_op_init hw, decode_of_op_init hv]
    · rw [step_present, step_present, decode_of_op_final hw, decode_of_op_final hv]
  · refine ⟨_, _, (step_present s w).trans (exec_of_no_fault _ he hf), State.withEngine_getElem?_addressed _ he, ?_⟩
    obtain hw | ⟨hw, hopen⟩ := h
    · rw [decode_of_op_init hw]
      exact hf
    · rw [decode_of_op_final hw, effect, Engine.finish_of_open ((Phase.isOpen_iff _).mp hopen)]
      exact hf

/-- Settles O18: the decoder by its `op` field, and the step by `step_command_specStep`. -/
theorem stepIsTheStepFunction : Obligations.StepIsTheStepFunction :=
  ⟨fun _ => ⟨decode_of_op_reserved, decode_of_op_init, decode_of_op_update, decode_of_op_final⟩,
    fun _ _ _ _ _ hhost he => step_command_specStep hhost he⟩

/-- Settles O54: the one line and its lines have the same words and the same bounds on their operands. -/
theorem assembledChecksumIsItsLines : Obligations.AssembledChecksumIsItsLines := by
  intro ns
  have hbounds : (Line.init :: (ns.map .update ++ [.final])).all Line.wellFormed = (Line.checksum ns).wellFormed := by
    simp [Line.wellFormed, List.all_map, Function.comp_def]
  have hupdates : (ns.map Line.update).flatMap Line.words = (ns.map (BitVec.ofNat 8)).map updateWord := by
    rw [List.flatMap_map, List.map_map, List.map_eq_flatMap]
    rfl
  have hwords : (Line.init :: (ns.map .update ++ [.final])).flatMap Line.words = Line.words (.checksum ns) := by
    simp [Line.words, encode, expand, hupdates]
  rw [assemble_eq, hbounds, hwords, assembleLine]

/-- Settles O1: each value of `op` owns 256 consecutive words. -/
theorem everyWordDecodesByItsOpField : Obligations.EveryWordDecodesByItsOpField := by
  refine ⟨fun w => ⟨fun h => ⟨_, decode_of_op_reserved (op_eq_of_toNat ?_)⟩,
    fun h => decode_of_op_init (op_eq_of_toNat ?_), fun h => ?_, fun h => decode_of_op_final (op_eq_of_toNat ?_)⟩,
    rfl, fun b => congrArg (fun v => [v]) (updateWord_eq_add b), rfl⟩
  · rw [BitVec.toNat_ofNat]; omega
  · rw [BitVec.toNat_ofNat]; omega
  · rw [← byte_eq_ofNat_sub h.1]
    exact decode_of_op_update (op_eq_of_toNat (by rw [BitVec.toNat_ofNat]; omega))
  · have hw := w.isLt
    rw [BitVec.toNat_ofNat]
    omega

/-- Settles O4: `encode_decode`, by the word's `op` field. -/
theorem encodeOfDecodeIsTheCanonicalWord : Obligations.EncodeOfDecodeIsTheCanonicalWord := encode_decode

/-- Settles O10: RESERVED raises IllegalCommand and nothing else, and an engine with fault 2 is halted. -/
theorem reservedRaisesIllegalCommand : Obligations.ReservedRaisesIllegalCommand := by
  refine ⟨fun w => decode_of_op_reserved, fun s e low he hf => ⟨_, exec_of_no_fault _ he hf, ?_, fun i => ?_⟩⟩
  · simp [effect, Engine.raise, Cause.bit, hf, State.withEngine]
  · refine exec_of_fault i (State.withEngine_getElem?_addressed _ he) ?_
    simp [effect, hf, Cause.bit]

/-- Settles O17: the host's word is decoded and run; a table word is presented as its bits 9:0. -/
theorem stepRunsTheDecodedInstruction : Obligations.StepRunsTheDecodedInstruction := by
  refine ⟨fun s k w rest hhost => step_of_command hhost, fun s nbits w i h => ?_⟩
  rw [State.withFetchWord, step_present, decodeTableWord_some h]

/-- Settles O53: a line in range emits the word of its instruction, a line out of range is refused. -/
theorem assemblerLinesEmitTheirWords : Obligations.AssemblerLinesEmitTheirWords := by
  refine ⟨rfl, rfl, fun n hn => ?_, fun n hn => ?_, fun n hn => ?_, fun n hn => ?_⟩
  · rw [assembleLine_of_wellFormed (l := .update n) (decide_eq_true hn)]
    simp only [Line.words, encode, updateWord_ofNat hn]
  · exact assembleLine_of_wellFormed (l := .word n) (decide_eq_true hn)
  · exact assembleLine_of_not_wellFormed (by simpa [Line.wellFormed, fitsByte] using hn)
  · exact assembleLine_of_not_wellFormed (by simpa [Line.wellFormed, fitsWord] using hn)

end Sys2Proof.Machine

/-! # The construction of the table (spec/40_table_construction.md)

`bitstep` is linear over XOR, hence so are its iterates and the table (R46 item 1). The rest of R46 follows: an entry
from the power-of-two entries, the doubling rule, and the distinct bytes, since a linear map that takes no index but 0
to 0 is injective. Then the statements of this family. -/

namespace Sys2Proof.Machine

/-! ## The bit step and its iterates -/

section BitSteps
variable (n : Nat) (a b r : Word)

/-- The top bit of an XOR is 1 when exactly one of the two top bits is (40 R46 item 1). -/
theorem topBit_xor : topBit (a ^^^ b) = (topBit a ^^ topBit b) := BitVec.getLsbD_xor

/-- The bit step of a word whose top bit is 0 is the shift alone (40 R42). -/
theorem bitstep_of_topBit_false {r : Word} (h : topBit r = false) : bitstep r = r <<< 1 := by
  simp [bitstep, shl32, h]

/-- 40 R46 item 1: the polynomial is XORed in exactly when one of the two top bits is 1. -/
theorem bitstep_xor : bitstep (a ^^^ b) = bitstep a ^^^ bitstep b := by
  simp only [bitstep, topBit_xor, shl32, BitVec.shiftLeft_xor_distrib]
  cases topBit a <;> cases topBit b
  · rfl
  · exact BitVec.xor_assoc ..
  · change a <<< 1 ^^^ b <<< 1 ^^^ poly = a <<< 1 ^^^ poly ^^^ b <<< 1
    ac_rfl
  · calc a <<< 1 ^^^ b <<< 1
        = a <<< 1 ^^^ b <<< 1 ^^^ (poly ^^^ poly) := by rw [BitVec.xor_self, BitVec.xor_zero]
      _ = a <<< 1 ^^^ poly ^^^ (b <<< 1 ^^^ poly) := by ac_rfl

/-- Any number of bit steps is linear, since one is (40 R46 item 1). -/
theorem bitsteps_xor : bitsteps n (a ^^^ b) = bitsteps n a ^^^ bitsteps n b := by
  induction n generalizing a b with
  | zero => rfl
  | succ n ih => rw [bitsteps, bitstep_xor, ih]; rfl

/-- One more bit step can be taken first or last. -/
theorem bitsteps_bitstep : bitsteps n (bitstep r) = bitstep (bitsteps n r) := by
  induction n generalizing r with
  | zero => rfl
  | succ n ih => exact ih _

end BitSteps

/-! ## The table as a linear map -/

/-- An entry as eight bit steps, in the shifts of the statements (40 R41). -/
theorem tableRead_eq (i : Byte) : tableRead i = bitsteps 8 (i.setWidth 32 <<< 24) := rfl

/-- No bit is set in the start register of index 0, so no bit step XORs the polynomial in (40 R41). -/
theorem tableRead_zero : tableRead 0 = 0 := by decide

/-- The start register is linear in the index, and eight bit steps are linear (40 R46 item 1). -/
theorem tableRead_xor (i j : Byte) : tableRead (i ^^^ j) = tableRead i ^^^ tableRead j := by
  simp only [tableRead_eq, BitVec.setWidth_xor, BitVec.shiftLeft_xor_distrib, bitsteps_xor]

/-- The XOR of the powers of two at the set bits of a byte below bit `n` has exactly those bits. -/
theorem getLsbD_foldl_xor_setBits (i : Byte) (n j : Nat) :
    (((List.range n).filter i.getLsbD).foldl (fun t k => t ^^^ 1#8 <<< k) 0#8).getLsbD j =
      (decide (j < n) && i.getLsbD j) := by
  induction n with
  | zero => simp
  | succ n ih =>
    rw [List.range_succ, List.filter_append, List.foldl_append]
    cases hn : i.getLsbD n with
    | false =>
      rw [List.filter_cons_of_neg (by simp [hn]), List.filter_nil, List.foldl_nil, ih]
      grind
    | true =>
      have hlt : n < 8 := BitVec.lt_of_getLsbD hn
      rw [List.filter_cons_of_pos hn, List.filter_nil, List.foldl_cons, List.foldl_nil, BitVec.getLsbD_xor, ih]
      grind

/-- A byte is the XOR of the powers of two at its set bits. -/
theorem foldl_xor_setBits (i : Byte) :
    ((List.range 8).filter i.getLsbD).foldl (fun t k => t ^^^ 1#8 <<< k) 0#8 = i :=
  BitVec.eq_of_getLsbD_eq fun j hj => by simp only [getLsbD_foldl_xor_setBits, hj, decide_true, Bool.true_and]

/-- In the start register of an index below 128 the top bit is 0. -/
theorem topBit_startRegister {k : Byte} (h : k.toNat < 128) : topBit (k.setWidth 32 <<< 24) = false := by
  have hbit : k.getLsbD 7 = false := Nat.testBit_lt_two_pow (i := 7) h
  simpa [topBit] using hbit

/-- A linear map on bytes that takes only 0 to 0 is a bijection. -/
theorem bijective_of_xor_of_ker {f : Byte → Byte} (hxor : ∀ i j, f (i ^^^ j) = f i ^^^ f j)
    (hker : ∀ i, f i = 0 → i = 0) : Function.Bijective f := by
  refine Finite.injective_iff_bijective.mp fun i j hij => BitVec.xor_eq_zero_iff.mp (hker _ ?_)
  rw [hxor, hij, BitVec.xor_self]
  rfl

/-- The byte of each entry that starts at bit `start` is linear in the index. -/
theorem tableRead_byte_xor (start : Nat) (i j : Byte) :
    (tableRead (i ^^^ j)).extractLsb' start 8 =
      (tableRead i).extractLsb' start 8 ^^^ (tableRead j).extractLsb' start 8 := by
  rw [tableRead_xor, BitVec.extractLsb'_xor]

/-- No entry but `T[0]` has top byte 0 (40 R46 item 4). -/
theorem tableRead_topByte_eq_zero : ∀ i : Byte, (tableRead i).extractLsb' 24 8 = 0 → i = 0 := by decide +kernel

/-- No entry but `T[0]` has bottom byte 0 (40 R46 item 4). -/
theorem tableRead_bottomByte_eq_zero : ∀ i : Byte, (tableRead i).extractLsb' 0 8 = 0 → i = 0 := by decide +kernel

/-- The listing is the construction carried out for every index in order (40 R45). -/
theorem listedTable_eq_map : listedTable = (List.range 256).map fun n => tableRead (BitVec.ofNat 8 n) := by
  decide +kernel

/-! ## The statements -/

/-- Settles O36: linearity of the bit step, and of eight of them. -/
theorem tableIsLinear : Obligations.TableIsLinear := ⟨bitstep_xor, tableRead_xor, tableRead_zero⟩

/-- Settles O38: top and bottom byte are linear with kernel 0; entries with equal top bytes have equal indexes. -/
theorem tableBytesArePermutations : Obligations.TableBytesArePermutations := by
  have htop : Function.Bijective fun i : Byte => (tableRead i).extractLsb' 24 8 :=
    bijective_of_xor_of_ker (tableRead_byte_xor 24) tableRead_topByte_eq_zero
  have hbottom : Function.Bijective fun i : Byte => (tableRead i).extractLsb' 0 8 :=
    bijective_of_xor_of_ker (tableRead_byte_xor 0) tableRead_bottomByte_eq_zero
  exact ⟨fun i j h => htop.injective (congrArg (BitVec.extractLsb' 24 8) h), htop, hbottom⟩

/-- Settles O32: the definition of `bitstep`, and its values at the corner cases. -/
theorem bitstepShiftsAndFeedsBack : Obligations.BitstepShiftsAndFeedsBack :=
  ⟨fun _ => rfl, by decide⟩

/-- Settles O33: `bitsteps 8` taken apart, and the last words of the worked traces. -/
theorem tableEntryIsEightBitSteps : Obligations.TableEntryIsEightBitSteps :=
  ⟨tableRead_eq, by decide⟩

/-- Settles O34: the worked examples of R41; the wrong literal differs from the entry there. -/
theorem tableFixedPoints : Obligations.TableFixedPoints := by
  obtain ⟨-, h00, h01, -, h80, hFF⟩ := tableEntryIsEightBitSteps
  exact ⟨h00, h01, h80, hFF, by rw [h80]; decide⟩

/-- Settles O35: the listing read at an index is the construction's value there. -/
theorem listedTableIsTheConstruction : Obligations.ListedTableIsTheConstruction := by
  refine ⟨by simp [listedTable_eq_map], fun i => ?_⟩
  rw [listedTable_eq_map, List.getElem?_map, List.getElem?_range i.isLt, Option.map_some, BitVec.ofNat_toNat,
    BitVec.setWidth_eq]

/-- Settles O37: the table of an XOR, bit by bit; doubling the index is one bit step of the start register. -/
theorem tableFromPowersOfTwo : Obligations.TableFromPowersOfTwo := by
  refine ⟨fun i => ?_, fun k hk => ?_⟩
  · calc tableRead i
        = tableRead (((List.range 8).filter i.getLsbD).foldl (fun t k => t ^^^ 1#8 <<< k) 0#8) := by
          rw [foldl_xor_setBits]
      _ = ((List.range 8).filter i.getLsbD).foldl (fun t k => t ^^^ tableRead (1#8 <<< k)) (tableRead 0) :=
          (List.foldl_hom tableRead fun t k => (tableRead_xor t (1#8 <<< k)).symm).symm
      _ = _ := by rw [tableRead_zero]
  · have hstart : (k <<< 1).setWidth 32 <<< 24 = bitstep (k.setWidth 32 <<< 24) := by
      rw [bitstep_of_topBit_false (topBit_startRegister hk)]
      bv_omega
    rw [tableRead_eq, hstart, bitsteps_bitstep, tableRead_eq]

end Sys2Proof.Machine

/-! # The pure functions and the three commands (spec/41_state_transitions.md)

`update` in the shifts of the statements, its low byte, and the split of a word into its top byte and the rest, on which
both the bit-serial form (R58) and the bijection (R59) rest. Then the statements of this family. -/

namespace Sys2Proof.Machine

section Words
variable (v : Word) (b : Byte)

/-! ## A word as its top byte and the rest -/

/-- The split of 41 R58: `{v[31:24], 0} XOR {0, v[23:0]}`. -/
theorem word_eq_topByte_xor_rest : v = ((v.extractLsb' 24 8).setWidth 32 <<< 24) ^^^ (v <<< 8 >>> 8) := by
  apply BitVec.eq_of_getLsbD_eq
  intro k hk
  by_cases htop : k < 24
  · have hrest : 8 + k < 32 := by omega
    simp [htop, hrest, hk]
  · have hover : ¬ 8 + k < 32 := by omega
    have hbyte : k - 24 < 8 := by omega
    have hpos : 24 + (k - 24) = k := by omega
    simp [htop, hover, hk, hbyte, hpos]

/-- A word without a bit above bit `31 - n` is only shifted by `n` bit steps: the top bit is never set before a shift
(41 R58). -/
theorem bitsteps_eq_shiftLeft {n : Nat} {r : Word} (h : r.toNat * 2 ^ n < 2 ^ 32) : bitsteps n r = r <<< n := by
  induction n generalizing r with
  | zero => simp [bitsteps]
  | succ n ih =>
    rw [pow_succ', ← mul_assoc] at h
    have hlt : r.toNat * 2 < 2 ^ 32 := lt_of_le_of_lt (Nat.le_mul_of_pos_right _ (Nat.two_pow_pos n)) h
    have htop : topBit r = false := Nat.testBit_lt_two_pow (i := 31) (by omega)
    have hshift : (r <<< 1).toNat = r.toNat * 2 := by
      rw [BitVec.toNat_shiftLeft, Nat.shiftLeft_eq, pow_one, Nat.mod_eq_of_lt hlt]
    rw [bitsteps, bitstep_of_topBit_false htop, ih (by rwa [hshift]), ← BitVec.shiftLeft_add, Nat.add_comm]

/-- Eight bit steps of the part below the top byte shift it (41 R58). -/
theorem bitsteps_rest : bitsteps 8 (v <<< 8 >>> 8) = v <<< 8 := by
  rw [bitsteps_eq_shiftLeft (by bv_omega)]
  bv_omega

/-! ## `update` and `finalise` -/

/-- `update` with the index as `v[31:24] XOR b` (41 R51, R57). -/
theorem update_eq : update v b = (v <<< 8) ^^^ tableRead (v.extractLsb' 24 8 ^^^ b) := by
  rw [update, tableIndex_eq, shl32]

/-- The shift leaves the low byte of the result to the table entry (41 R57). -/
theorem update_lowByte :
    (update v b).extractLsb' 0 8 = (tableRead (v.extractLsb' 24 8 ^^^ b)).extractLsb' 0 8 := by
  have hshift : (v <<< 8).extractLsb' 0 8 = 0#8 := by
    apply BitVec.eq_of_toNat_eq
    rw [BitVec.extractLsb'_toNat, BitVec.toNat_shiftLeft, BitVec.toNat_ofNat]
    omega
  rw [update_eq, BitVec.extractLsb'_xor, hshift, BitVec.zero_xor]

/-- The complement of the complement (41 R59). -/
theorem finalise_finalise : finalise (finalise v) = v := by
  rw [finalise, finalise, not32, not32, BitVec.xor_assoc, BitVec.xor_self, BitVec.xor_zero]

/-- 41 R59: the low byte of the result identifies the index, hence the top byte; the rest follows from the shift. -/
theorem update_injective : Function.Injective fun v : Word => update v b := by
  intro v w (h : update v b = update w b)
  obtain ⟨-, -, hbottom⟩ := tableBytesArePermutations
  have hindex : v.extractLsb' 24 8 ^^^ b = w.extractLsb' 24 8 ^^^ b := by
    apply hbottom.injective
    change (tableRead _).extractLsb' 0 8 = (tableRead _).extractLsb' 0 8
    rw [← update_lowByte, h, update_lowByte]
  have htop : v.extractLsb' 24 8 = w.extractLsb' 24 8 := (BitVec.xor_left_inj _).mp hindex
  have hshift : v <<< 8 = w <<< 8 := by
    rw [update_eq, update_eq, hindex] at h
    exact (BitVec.xor_left_inj _).mp h
  rw [word_eq_topByte_xor_rest v, htop, hshift, ← word_eq_topByte_xor_rest w]

end Words

/-! ## A command that violates the protocol -/

/-- In an engine without a fault, a command that raises ProtocolViolation sets `fault` to 1 and does nothing else (60 R71,
R74). -/
theorem exec_of_protocolViolation {s : State} {e : Engine} {i : Instr} (he : s.engines[s.addressed]? = some e)
    (hf : e.fault = 0) (h : effect i e = e.raise .protocolViolation) :
    exec i s = .next (s.withEngine { e with fault := 0b01 }) := by
  have hraise : e.raise .protocolViolation = { e with fault := 0b01 } := by simp [Engine.raise, Cause.bit, hf]
  rw [exec_of_no_fault _ he hf, h, hraise]

/-! ## The statements -/

/-- Settles O41: eight bit steps of the top byte XOR `b` are the table entry, those of the rest are the shift. -/
theorem updateIsBitSerial : Obligations.UpdateIsBitSerial := by
  intro v b
  have hstart : v ^^^ (b.setWidth 32 <<< 24) =
      (v <<< 8 >>> 8) ^^^ ((v.extractLsb' 24 8 ^^^ b).setWidth 32 <<< 24) := by
    rw [BitVec.setWidth_xor, BitVec.shiftLeft_xor_distrib, ← BitVec.xor_assoc, BitVec.xor_comm (v <<< 8 >>> 8),
      ← word_eq_topByte_xor_rest]
  rw [hstart, bitsteps_xor, bitsteps_rest, ← tableRead_eq, update_eq]

/-- Settles O40: the bits of a shift by 8, XORed with those of the table entry. -/
theorem updateDatapathBitByBit : Obligations.UpdateDatapathBitByBit := by
  intro v b k
  rw [update_eq, BitVec.getLsbD_xor, BitVec.getLsbD_shiftLeft]
  constructor
  · intro hk
    simp [hk]
  · rintro ⟨hlow, hhigh⟩
    simp [hhigh, Nat.not_lt.mpr hlow]

/-- Settles O42: FINALISED is a closed phase; an injective map on the finite type of words is a bijection. -/
theorem finaliseInvolutionUpdateBijection : Obligations.FinaliseInvolutionUpdateBijection := by
  refine ⟨finalise_finalise, fun s e he hf hp => ?_, fun b => Finite.injective_iff_bijective.mp (update_injective b)⟩
  exact ⟨_, exec_of_protocolViolation he hf (Engine.finish_of_closed (.inr hp)),
    State.withEngine_getElem?_addressed _ he⟩

/-- Settles O7: INIT writes both fields without reading them. -/
theorem initLoadsTheSeed : Obligations.InitLoadsTheSeed := by
  refine ⟨fun w => decode_of_op_init, fun s e he hf => ?_⟩
  rw [exec_of_no_fault _ he hf, effect, Engine.init, hf]
  rfl

/-- Settles O8: UPDATE in the open and in the closed phases. -/
theorem updateFoldsTheByte : Obligations.UpdateFoldsTheByte := by
  refine ⟨fun w => decode_of_op_update, fun s e b he hf => ⟨fun hopen => ?_, fun hclosed => ?_⟩⟩
  · rw [exec_of_no_fault _ he hf, effect, Engine.feed_of_open b hopen, update_eq, hf]
    rfl
  · exact exec_of_protocolViolation he hf (Engine.feed_of_closed b hclosed)

/-- Settles O9: FINAL in the open and in the closed phases. -/
theorem finalComplementsTheRegister : Obligations.FinalComplementsTheRegister := by
  refine ⟨fun w => decode_of_op_final, fun s e he hf => ⟨fun hopen => ?_, fun hclosed => ?_⟩⟩
  · rw [exec_of_no_fault _ he hf, effect, Engine.finish_of_open hopen, hf]
    rfl
  · exact exec_of_protocolViolation he hf (Engine.finish_of_closed hclosed)

/-- Settles O39: the definition of `update`, its values at the corner cases, and `update_lowByte`. -/
theorem updateIsTheTableFormula : Obligations.UpdateIsTheTableFormula := by
  refine ⟨fun _ _ => rfl, by decide, fun b => ?_, by decide, by decide, by decide, by decide, update_lowByte⟩
  rw [update_eq]
  simp

end Sys2Proof.Machine

/-! # The checksum of a sequence (spec/42_checksum_sequence.md)

What equal results of `update` say of its operands, on which the distinct two-byte checksums (R65) rest; what a halted
engine makes of CHECKSUM; and a run of command words for one engine as the left fold of `specStep`, which for the `n + 2`
words of R61 is the meaning of CHECKSUM. Then the statements of this family. -/

namespace Sys2Proof.Machine

/-! ## Values -/

section Values
variable {v w : Word} {a b : Byte}

/-- The low byte of a result of `update` identifies the table index it was made with (40 R46 item 4, 42 R65). -/
theorem index_eq_of_update_lowByte_eq (h : (update v a).extractLsb' 0 8 = (update w b).extractLsb' 0 8) :
    v.extractLsb' 24 8 ^^^ a = w.extractLsb' 24 8 ^^^ b := by
  obtain ⟨-, -, hbottom⟩ := tableBytesArePermutations
  rw [update_lowByte, update_lowByte] at h
  exact hbottom.injective h

/-- Equal results of `update` come from registers that agree below their top byte: the table entries are the same
(42 R65). -/
theorem shiftLeft_eq_of_update_eq (h : update v a = update w b) : v <<< 8 = w <<< 8 := by
  have hindex := index_eq_of_update_lowByte_eq (congrArg (BitVec.extractLsb' 0 8) h)
  rw [update_eq, update_eq, hindex] at h
  exact (BitVec.xor_left_inj _).mp h

/-- The low byte survives a shift by 8. -/
theorem lowByte_eq_of_shiftLeft_eq (h : v <<< 8 = w <<< 8) : v.extractLsb' 0 8 = w.extractLsb' 0 8 := by
  have hnat := congrArg BitVec.toNat h
  apply BitVec.eq_of_toNat_eq
  simp only [BitVec.toNat_shiftLeft, Nat.shiftLeft_eq, BitVec.extractLsb'_toNat] at hnat ⊢
  omega

/-- `finalise` loses nothing (41 R59). -/
theorem finalise_injective : Function.Injective finalise := Function.LeftInverse.injective finalise_finalise

/-- Two bytes fed to the same register can be told from the result, which fixes the low byte of the register between them
and so the first byte; the second byte is then in the index of the second table read (42 R65). -/
theorem bytes_eq_of_update_update_eq {c d : Byte} (h : update (update v a) b = update (update v c) d) :
    a = c ∧ b = d := by
  have hbetween := lowByte_eq_of_shiftLeft_eq (shiftLeft_eq_of_update_eq h)
  obtain rfl : a = c := (BitVec.xor_right_inj _).mp (index_eq_of_update_lowByte_eq hbetween)
  exact ⟨rfl, (BitVec.xor_right_inj _).mp (index_eq_of_update_lowByte_eq (congrArg (BitVec.extractLsb' 0 8) h))⟩

end Values

/-! ## CHECKSUM on one engine -/

section OneEngine
variable {e : Engine} (bytes : List Byte)

/-- A halted engine ignores every UPDATE of a list (60 R75). -/
theorem Engine.feedAll_of_fault (hf : e.fault ≠ 0) : Engine.feedAll bytes e = e := by
  induction bytes with
  | nil => rfl
  | cons b bytes ih => rw [Engine.feedAll, Engine.unlessHalted_of_fault _ hf, ih]

/-- A halted engine ignores all the commands of CHECKSUM (60 R75). -/
theorem Engine.checksumSequence_of_fault (hf : e.fault ≠ 0) : e.checksumSequence bytes = e := by
  rw [Engine.checksumSequence, Engine.unlessHalted_of_fault _ hf, Engine.feedAll_of_fault bytes hf,
    Engine.unlessHalted_of_fault _ hf]

/-- The commands of CHECKSUM check for the halt themselves: a check before them adds nothing (60 R75, 42 R61). -/
theorem Engine.unlessHalted_checksumSequence (e : Engine) :
    e.unlessHalted (Engine.checksumSequence bytes) = e.checksumSequence bytes := by
  obtain ⟨hf, hu⟩ | ⟨-, hu⟩ := Engine.unlessHalted_cases (Engine.checksumSequence bytes) e
  · rw [hu, Engine.checksumSequence_of_fault bytes hf]
  · exact hu

/-- The canonical word of INIT does INIT behind the halt check (30 R31, R37). -/
theorem specStep_initWord (e : Engine) : specStep e initWord = e.unlessHalted Engine.init := by
  rw [← Engine.unlessHalted_effect_decode, decode_initWord, effect]

/-- The word of UPDATE `b` does UPDATE `b` behind the halt check (30 R31, R37). -/
theorem specStep_updateWord (e : Engine) (b : Byte) : specStep e (updateWord b) = e.unlessHalted (Engine.feed b) := by
  rw [← Engine.unlessHalted_effect_decode, decode_updateWord, effect]

/-- The canonical word of FINAL does FINAL behind the halt check (30 R31, R37). -/
theorem specStep_finalWord (e : Engine) : specStep e finalWord = e.unlessHalted Engine.finish := by
  rw [← Engine.unlessHalted_effect_decode, decode_finalWord, effect]

/-- The UPDATE words of a list of bytes, one after another (42 R61). -/
theorem foldl_specStep_updateWords (e : Engine) :
    (bytes.map updateWord).foldl specStep e = Engine.feedAll bytes e := by
  induction bytes generalizing e with
  | nil => rfl
  | cons b bytes ih => rw [List.map_cons, List.foldl_cons, ih, specStep_updateWord, Engine.feedAll]

/-- The words of the expansion, one after another, are the meaning of CHECKSUM (42 R61). -/
theorem foldl_specStep_expand (e : Engine) : (expand bytes).foldl specStep e = e.checksumSequence bytes := by
  rw [expand, List.foldl_cons, List.foldl_append, foldl_specStep_updateWords, List.foldl_cons, List.foldl_nil,
    specStep_initWord, specStep_finalWord, Engine.checksumSequence]

/-- An engine without a fault after INIT and the UPDATEs of a list of bytes (42 R61). -/
theorem foldl_specStep_initWord_updateWords (hf : e.fault = 0) :
    (initWord :: bytes.map updateWord).foldl specStep e =
      { crc := foldBytes initialise bytes, phase := if bytes = [] then .initialised else .accumulating, fault := 0 } := by
  rw [List.foldl_cons, foldl_specStep_updateWords, specStep_initWord, Engine.unlessHalted_of_no_fault _ hf,
    Engine.feedAll_of_open bytes (e := e.init) hf (.inl rfl), Engine.init_fault, hf]
  rfl

end OneEngine

/-! ## Command words for one engine with nothing between them -/

/-- Of two commands for engine `k`, the state after the second holds nothing that the first wrote (10 R19). -/
theorem State.command_command (s : State) (k : Nat) (a b : Engine) (h rest : List HostEvent) :
    (((((s.withHost h).address k).withEngine a).withHost rest).address k).withEngine b =
      ((s.withHost rest).address k).withEngine b := by
  simp [State.withEngine, State.withHost, State.address]

/-- A run through one or more command words for engine `k`: it takes them in order, and nothing else changes (30 R37,
10 R19). -/
theorem runSteps_commands {s : State} {k : Nat} {w : CommandWord} {ws : List CommandWord} {rest : List HostEvent}
    {e : Engine} (he : s.engines[k]? = some e) (hh : s.host = (w :: ws).map (.command k) ++ rest) :
    runSteps (ws.length + 1) s =
      .next (((s.withHost rest).address k).withEngine ((w :: ws).foldl specStep e)) := by
  induction ws generalizing s w e with
  | nil => rw [runSteps_succ_of_step (step_command_specStep hh he)]; rfl
  | cons v ws ih =>
    rw [List.length_cons, runSteps_succ_of_step (step_command_specStep hh he),
      ih (State.withEngine_getElem?_addressed _ he) rfl, State.command_command]
    rfl

/-- A run through the `n + 2` words of CHECKSUM for engine `k` has the meaning of CHECKSUM on that engine (42 R61). -/
theorem runSteps_expand {s : State} {k : Nat} {bytes : List Byte} {rest : List HostEvent} {e : Engine}
    (he : s.engines[k]? = some e) (hh : s.host = (expand bytes).map (.command k) ++ rest) :
    runSteps (bytes.length + 2) s =
      .next (((s.withHost rest).address k).withEngine (e.checksumSequence bytes)) := by
  have hrun := runSteps_commands he hh
  rw [List.length_append, List.length_map, List.length_singleton] at hrun
  rw [← foldl_specStep_expand]
  exact hrun

/-! ## The statements -/

/-- Settles O11: on an engine without a fault, CHECKSUM is `Engine.checksumSequence_of_no_fault`. -/
theorem checksumLeavesTheChecksum : Obligations.ChecksumLeavesTheChecksum := by
  intro s e bytes he hf
  rw [exec_of_no_fault _ he hf, effect, Engine.checksumSequence_of_no_fault bytes hf]
  rfl

/-- Settles O45: `finalise` is injective, and so are two updates of the seed in their bytes. -/
theorem twoByteChecksumsAreDistinct : Obligations.TwoByteChecksumsAreDistinct := by
  have hdistinct (a b c d : Byte) (h : checksum [a, b] = checksum [c, d]) : a = c ∧ b = d :=
    bytes_eq_of_update_update_eq (finalise_injective h)
  exact ⟨hdistinct, fun a b hne h => hne (hdistinct a b b a h).1, by decide, by decide⟩

/-- Settles O48: the words before any point are INIT and some UPDATEs, all of them are CHECKSUM, and a halted engine
ignores them. -/
theorem checksumCommandsComputeTheChecksum : Obligations.ChecksumCommandsComputeTheChecksum := by
  refine ⟨fun bytes => ?_, fun s k e bytes rest he hh => ⟨fun hf => ⟨fun xs ys hsplit => ?_, ?_⟩, fun hf => ?_⟩⟩
  · rw [expand, List.map_congr_left fun b _ => updateWord_eq_add b]
    rfl
  · have hhost : s.host = (initWord :: xs.map updateWord).map (.command k) ++
        ((ys.map updateWord ++ [finalWord]).map (.command k) ++ rest) := by
      simp [hh, hsplit, expand]
    have hrun := runSteps_commands he hhost
    rw [List.length_map, foldl_specStep_initWord_updateWords xs hf] at hrun
    exact hrun
  · rw [runSteps_expand he hh, Engine.checksumSequence_of_no_fault bytes hf]
    rfl
  · rw [runSteps_expand he hh, Engine.checksumSequence_of_fault bytes hf, State.withEngine_self he]
    rfl

/-- Settles O49: both are `Engine.checksumSequence` on the addressed engine. -/
theorem checksumIsItsExpansion : Obligations.ChecksumIsItsExpansion := by
  intro s e bytes rest he hh
  rw [runSteps_expand he hh, exec_eq_onAddressed, onAddressed_of_engine (s := { s with host := rest }) _ he, effect,
    Engine.unlessHalted_checksumSequence]
  rfl

/-- Settles O43: the definition of `checksum`, and the value of its worked example. -/
theorem checksumIsTheFold : Obligations.ChecksumIsTheFold := ⟨fun _ => rfl, by decide⟩

/-- Settles O44: the two words are the expansion of the empty list. -/
theorem emptySequenceGivesZero : Obligations.EmptySequenceGivesZero := by
  refine ⟨by decide, fun s e k rest he hf hh => ⟨_, runSteps_expand (bytes := []) he hh, ?_⟩⟩
  rw [Engine.checksumSequence_of_no_fault [] hf]
  exact State.withEngine_getElem?_addressed _ he

/-- Settles O46: the values of three checksums. -/
theorem statedChecksums : Obligations.StatedChecksums := ⟨by decide, by decide, by decide⟩

/-- Settles O47: a fold of a concatenation, and `finalise` undone. -/
theorem incrementalUse : Obligations.IncrementalUse :=
  ⟨fun _ _ _ => List.foldl_append, fun xs => (finalise_finalise (foldBytes initialise xs)).symm, by decide, by decide,
    by decide⟩

end Sys2Proof.Machine

/-! # Faults and the halt (spec/60_exceptions.md)

Which commands raise which fault, read off `raised`, and the value of `fault` that each leaves; then a halted engine along
one step and along a run without a reset. -/

namespace Sys2Proof.Machine

/-! ## Which commands raise a fault -/

section Raising
variable {e : Engine} {i : Instr} {c : Cause}

/-- ProtocolViolation is raised in the four cases of 60 R72. -/
theorem raised_protocolViolation_iff {p : Phase} :
    raised p i = some .protocolViolation ↔
      ((∃ b, i = .update b) ∨ i = .final) ∧ (p = .idle ∨ p = .finalised) := by
  cases i <;> simp [raised, or_iff_not_imp_left]

/-- IllegalCommand is raised by the reserved words, in every phase (60 R73). -/
theorem raised_illegalCommand_iff {p : Phase} : raised p i = some .illegalCommand ↔ ∃ low, i = .reserved low := by
  cases i <;> simp [raised]

/-- Raising the fault is the whole effect of a command that raises one (60 R74). -/
theorem effect_of_raised (h : raised e.phase i = some c) : effect i e = e.raise c := by
  cases c with
  | protocolViolation =>
    obtain ⟨⟨b, rfl⟩ | rfl, hclosed⟩ := raised_protocolViolation_iff.mp h
    · exact Engine.feed_of_closed b hclosed
    · exact Engine.finish_of_closed hclosed
  | illegalCommand =>
    obtain ⟨low, rfl⟩ := raised_illegalCommand_iff.mp h
    rfl

/-- A command that raises no fault completes with `fault = 0` (60 R72). -/
theorem effect_fault_of_not_raised (hf : e.fault = 0) (h : raised e.phase i = none) : (effect i e).fault = 0 := by
  obtain ⟨c, hc, -⟩ | ⟨-, he⟩ | ⟨b, -, -, he⟩ | ⟨-, -, he⟩ | ⟨bs, -, he⟩ := effect_cases i hf
  · rw [h] at hc
    cases hc
  all_goals rw [he]

/-- A fault raised in an engine without one leaves exactly its bit (60 R71, R74). -/
theorem Engine.raise_of_no_fault (c : Cause) (hf : e.fault = 0) : e.raise c = { e with fault := c.bit } := by
  simp [Engine.raise, hf]

/-- The two causes have different bits (60 R71). -/
theorem Cause.bit_injective : Function.Injective Cause.bit := by
  intro c d
  cases c <;> cases d <;> decide

/-- A cause's bit is not the value of `fault` without a fault (60 R71). -/
theorem Cause.bit_ne_zero (c : Cause) : c.bit ≠ 0 := by
  cases c <;> decide

/-- After a command in an engine without a fault, `fault` is the bit of a cause exactly if the command raises it
(60 R72, R73). -/
theorem effect_fault_eq_bit_iff (hf : e.fault = 0) : (effect i e).fault = c.bit ↔ raised e.phase i = some c := by
  cases h : raised e.phase i with
  | none =>
    rw [effect_fault_of_not_raised hf h]
    exact iff_of_false c.bit_ne_zero.symm nofun
  | some d => simp [effect_of_raised h, Engine.raise_of_no_fault d hf, Cause.bit_injective.eq_iff]

/-- A command in an engine without a fault sets at most one bit of `fault` (60 R77). -/
theorem effect_fault_ne_three (i : Instr) (hf : e.fault = 0) : (effect i e).fault ≠ 3 := by
  cases h : raised e.phase i with
  | none => rw [effect_fault_of_not_raised hf h]; decide
  | some d => rw [effect_of_raised h]; exact Engine.raise_fault_ne_three d hf

end Raising

/-! ## A halted engine along a run -/

section Halted
variable {s t : State} {k : Nat} {e : Engine}

/-- A step takes one event off the host's list; with no event it leaves the list empty (70 R89). -/
theorem step_host (hstep : step s = .next t) : t.host = s.host.tail := by
  obtain ⟨hh, rfl⟩ | ⟨rest, hh, rfl⟩ | ⟨rest, hh, rfl⟩ | ⟨j, w, rest, e, hh, -, rfl⟩ := step_cases hstep
  all_goals rw [hh]; rfl

/-- A step that finds no reset leaves every halted engine as it is (60 R75, R76). -/
theorem step_keeps_halted (hstep : step s = .next t) (he : s.engines[k]? = some e) (hf : e.fault ≠ 0)
    (hreset : ∀ rest, s.host ≠ .reset :: rest) : t.engines[k]? = some e := by
  obtain ⟨-, rfl⟩ | ⟨rest, -, rfl⟩ | ⟨rest, hh, rfl⟩ | ⟨j, w, rest, e₀, -, he₀, rfl⟩ := step_cases hstep
  · exact he
  · exact he
  · exact absurd hh (hreset rest)
  · by_cases hjk : j = k
    · subst hjk
      obtain rfl : e₀ = e := Option.some.inj (he₀.symm.trans he)
      rw [Engine.unlessHalted_of_fault _ hf]
      exact State.withEngine_getElem?_addressed (s := (s.withHost rest).address j) _ he
    · exact (List.getElem?_set_ne hjk).trans he

/-- A step that finds a reset takes it off the host's list and resets the engines (70 R85). -/
theorem step_reset {rest : List HostEvent} (hh : s.host = .reset :: rest) :
    step s = .next (s.withHost rest).resetEngines := by
  simp [step, fetch, hh]

/-- A step that finds a reset leaves every engine in IDLE without a fault (60 R76, 70 R85). -/
theorem step_reset_engine {rest : List HostEvent} (hstep : step s = .next t) (he : s.engines[k]? = some e)
    (hh : s.host = .reset :: rest) : ∃ e', t.engines[k]? = some e' ∧ e'.phase = .idle ∧ e'.fault = 0 := by
  obtain rfl : (s.withHost rest).resetEngines = t := by simpa [step_reset hh] using hstep
  exact ⟨_, by rw [State.resetEngines_getElem?]; exact congrArg _ he, rfl, rfl⟩

/-- A run that finds no reset leaves every halted engine as it is, by induction on the number of steps (60 R75, R76). -/
theorem runSteps_keeps_halted {n : Nat} (hrun : runSteps n s = .next t) (he : s.engines[k]? = some e) (hf : e.fault ≠ 0)
    (hreset : ∀ ev ∈ s.host.take n, ev.isReset = false) : t.engines[k]? = some e := by
  induction n generalizing s with
  | zero =>
    obtain rfl : s = t := by simpa using hrun
    exact he
  | succ n ih =>
    obtain ⟨u, hstep, hrest⟩ := runSteps_succ_next hrun
    have hfirst : ∀ rest, s.host ≠ .reset :: rest := fun rest hh => by simp [hh, HostEvent.isReset] at hreset
    have hothers : ∀ ev ∈ u.host.take n, ev.isReset = false := by
      rw [step_host hstep]
      cases hh : s.host with
      | nil => simp
      | cons ev evs => exact fun ev' hev' => hreset ev' (by rw [hh]; exact List.mem_cons_of_mem _ hev')
    exact ih hrest (step_keeps_halted hstep he hf hfirst) hothers

end Halted

/-! ## The statements -/

/-- Settles O12: every instruction is ignored, so every presented word is; and ending well needs `fault = 0`. -/
theorem haltedEngineIgnoresEveryCommand : Obligations.HaltedEngineIgnoresEveryCommand :=
  fun s _ he hf => ⟨fun i => exec_of_fault i he hf, fun w => (step_present s w).trans (exec_of_fault _ he hf),
    fun ⟨_, hnofault⟩ => hf hnofault⟩

/-- Settles O15: `fault` is the bit of what `raised` says, and `raised` says the cases of R72 and R73. -/
theorem faultsExactlyInTheStatedCases : Obligations.FaultsExactlyInTheStatedCases := fun i _ e he hf =>
  ⟨_, effect i e, exec_of_no_fault i he hf, State.withEngine_getElem?_addressed _ he,
    (effect_fault_eq_bit_iff (c := .protocolViolation) hf).trans raised_protocolViolation_iff,
    (effect_fault_eq_bit_iff (c := .illegalCommand) hf).trans raised_illegalCommand_iff, effect_fault_ne_three i hf⟩

/-- Settles O16: the effect of a command that raises a fault is `Engine.raise`. -/
theorem raiseSetsOnlyTheFaultBit : Obligations.RaiseSetsOnlyTheFaultBit := by
  refine ⟨fun _ _ => rfl, rfl, rfl, fun i c s e he hf hc => ?_⟩
  rw [exec_of_no_fault i he hf, effect_of_raised hc, Engine.raise_of_no_fault c hf]
  rfl

/-- Settles O22: a step without a reset keeps a halted engine, a reset brings it back to IDLE. -/
theorem onlyResetClearsFault : Obligations.OnlyResetClearsFault :=
  fun _ _ _ _ hstep he hf => ⟨step_keeps_halted hstep he hf, fun ⟨_, hh⟩ => step_reset_engine hstep he hh⟩

/-- Settles O23: `runSteps_keeps_halted`, by induction on the number of steps. -/
theorem haltedUntilReset : Obligations.HaltedUntilReset :=
  fun _ _ _ _ _ hrun he hf hreset => runSteps_keeps_halted hrun he hf (by simpa using hreset)

end Sys2Proof.Machine

/-! # Reset and hazards (spec/70_reset_and_hazards.md)

A word acts as its canonical word does, so the words of a whole computation are, on one engine, the meaning of CHECKSUM
(R90); and the engines of the reset state, which no word but INIT may use (R87). Then the statements of this family. -/

namespace Sys2Proof.Machine

/-! ## The words of a computation on one engine -/

section Computation
variable (e : Engine) (w : CommandWord)

/-- The ignored field is not decoded (30 R34). -/
@[simp] theorem decode_canonicalWord : decode (canonicalWord w) = decode w := by
  obtain ⟨-, hd⟩ | ⟨-, hd⟩ | ⟨-, hd⟩ | ⟨-, hd⟩ := decode_cases w
  · rw [canonicalWord_of_decode hd rfl, hd]
    exact decode_reservedWord _
  · rw [canonicalWord_of_decode hd rfl, decode_initWord, hd]
  · rw [canonicalWord_of_decode hd rfl, decode_updateWord, hd]
  · rw [canonicalWord_of_decode hd rfl, decode_finalWord, hd]

/-- The ignored field changes nothing of a step (30 R34). -/
@[simp] theorem specStep_canonicalWord : specStep e (canonicalWord w) = specStep e w := by
  rw [← Engine.unlessHalted_effect_decode, decode_canonicalWord, Engine.unlessHalted_effect_decode]

/-- Words that read as one CHECKSUM, one after another and with any ignored fields, are the meaning of CHECKSUM
(42 R61, 70 R90). -/
theorem foldl_specStep_of_recogniseChecksum {ws : List CommandWord} {bytes : List Byte}
    (h : recogniseChecksum ws = some bytes) : ws.foldl specStep e = e.checksumSequence bytes :=
  calc ws.foldl specStep e
    _ = (ws.map canonicalWord).foldl specStep e := by simp [List.foldl_map]
    _ = (expand bytes).foldl specStep e := by rw [recognisedWordsAreTheExpansion ws bytes h]
    _ = e.checksumSequence bytes := foldl_specStep_expand bytes e

end Computation

/-! ## A step without a command, and engines after reset -/

/-- A step that finds nothing on the host's list changes nothing (70 R89). -/
theorem step_nil {s : State} (hh : s.host = []) : step s = .next s := by
  simp only [step, fetch, hh]

/-- Each engine of the reset state (10 R17). -/
theorem State.afterReset_getElem? (crcs : List Word) (k : Nat) :
    (State.afterReset crcs).engines[k]? = crcs[k]?.map Engine.afterReset := List.getElem?_map

/-- Every engine is in the state of an engine right after reset once the reset event has happened (70 R85). -/
theorem State.exists_afterReset_of_mem_resetEngines {s : State} {e : Engine} (he : e ∈ s.resetEngines.engines) :
    ∃ v, e = Engine.afterReset v := by
  obtain ⟨k, -, rfl⟩ := List.mem_mapIdx.mp he
  exact ⟨_, rfl⟩

/-! ## The statements -/

/-- Settles O51: the engine ends where its own words take it (O50), and these are CHECKSUM of their bytes. -/
theorem computationEndsWithItsChecksum : Obligations.ComputationEndsWithItsChecksum := by
  intro s k e evs bytes he hf hhost hplain hwords
  obtain ⟨t, hrun, -, -, hengines⟩ := interleavingsDoNotMatter s evs [] (by simpa using hhost) hplain
  have hend := hengines k e he
  rw [foldl_specStep_of_recogniseChecksum e hwords, Engine.checksumSequence_of_no_fault bytes hf] at hend
  exact ⟨t, _, hrun, hend, ⟨rfl, rfl⟩, rfl, rfl⟩

/-- Settles O20: an empty list is left as it is, and a wait is taken off it. -/
theorem waitingChangesNothing : Obligations.WaitingChangesNothing :=
  ⟨fun _ hhost => step_nil hhost, fun _ _ hhost => step_wait hhost⟩

/-- Settles O21: the step is `State.resetEngines`, and each of its engines is an `Engine.afterReset`. -/
theorem resetEventGivesResetEngines : Obligations.ResetEventGivesResetEngines := by
  refine fun s rest hhost => ⟨_, step_reset hhost, rfl, rfl, State.resetEngines_length _, fun e he => ?_⟩
  obtain ⟨v, rfl⟩ := State.exists_afterReset_of_mem_resetEngines he
  exact ⟨rfl, rfl⟩

/-- Settles O31: reset leaves the engine in IDLE, where UPDATE and FINAL raise ProtocolViolation. -/
theorem noUpdateOrFinalBeforeInit : Obligations.NoUpdateOrFinalBeforeInit := by
  intro crcs k v w hv hop
  have he : ((State.afterReset crcs).address k).engines[k]? = some (Engine.afterReset v) :=
    (State.afterReset_getElem? crcs k).trans (congrArg (Option.map _) hv)
  have hd : (∃ b, decode w = .update b) ∨ decode w = .final :=
    hop.imp (fun h => ⟨_, decode_of_op_update h⟩) decode_of_op_final
  have hraise : effect (decode w) (Engine.afterReset v) = (Engine.afterReset v).raise .protocolViolation :=
    effect_of_raised (raised_protocolViolation_iff.mpr ⟨hd, .inl rfl⟩)
  exact ⟨_, (step_present _ w).trans (exec_of_protocolViolation he rfl hraise),
    State.withEngine_getElem?_addressed _ he⟩

end Sys2Proof.Machine

/-! # The transition table, the decoding table and a missing engine (41 section 3, 95 section 2.5, log entry 6)

The columns of the transition table, one equation for each kind of entry, against the effect of a decoded word; and the
command port's answer when no engine has the addressed number. Then the statements of this family. -/

namespace Sys2Proof.Machine

/-! ## The columns of the transition table -/

section TransitionTable
variable {p : Phase}

@[simp] theorem phaseAfter_reserved (p : Phase) : phaseAfter p 0b00#2 = p := by cases p <;> rfl

@[simp] theorem phaseAfter_init (p : Phase) : phaseAfter p 0b01#2 = .initialised := by cases p <;> rfl

theorem phaseAfter_update_of_open (h : p = .initialised ∨ p = .accumulating) :
    phaseAfter p 0b10#2 = .accumulating := by
  obtain rfl | rfl := h <;> rfl

/-- The PV entries of UPDATE keep the phase. -/
theorem phaseAfter_update_of_closed (h : p = .idle ∨ p = .finalised) : phaseAfter p 0b10#2 = p := by
  obtain rfl | rfl := h <;> rfl

theorem phaseAfter_final_of_open (h : p = .initialised ∨ p = .accumulating) : phaseAfter p 0b11#2 = .finalised := by
  obtain rfl | rfl := h <;> rfl

/-- The PV entries of FINAL keep the phase. -/
theorem phaseAfter_final_of_closed (h : p = .idle ∨ p = .finalised) : phaseAfter p 0b11#2 = p := by
  obtain rfl | rfl := h <;> rfl

/-- The effect of a decoded word leaves the phase of the table, column by column (41 section 3). -/
theorem effect_decode_phase (e : Engine) (w : CommandWord) :
    (effect (decode w) e).phase = phaseAfter e.phase (w.extractLsb' 8 2) := by
  obtain ⟨hop, hd⟩ | ⟨hop, hd⟩ | ⟨hop, hd⟩ | ⟨hop, hd⟩ := decode_cases w
  · simp [hd, hop, effect]
  · simp [hd, hop, effect]
  · obtain hopen | hclosed := Phase.open_or_closed e.phase
    · simp [hd, hop, effect, Engine.feed_of_open _ hopen, phaseAfter_update_of_open hopen]
    · simp [hd, hop, effect, Engine.feed_of_closed _ hclosed, phaseAfter_update_of_closed hclosed]
  · obtain hopen | hclosed := Phase.open_or_closed e.phase
    · simp [hd, hop, effect, Engine.finish_of_open hopen, phaseAfter_final_of_open hopen]
    · simp [hd, hop, effect, Engine.finish_of_closed hclosed, phaseAfter_final_of_closed hclosed]

end TransitionTable

/-! ## An engine number that the block does not have -/

/-- What one command answers when no engine has the addressed number (log entry 6). -/
theorem onAddressed_of_no_engine {s : State} (f : Engine → Engine) (h : s.engines[s.addressed]? = none) :
    onAddressed f s = .fault .noSuchEngine := by
  simp [onAddressed, h]

/-! ## The statements -/

/-- Settles O19: without a fault the step is the effect of the decoded word, whose phase is `effect_decode_phase`. -/
theorem phaseFollowsTheTransitionTable : Obligations.PhaseFollowsTheTransitionTable := by
  intro s k w rest e hhost he hf
  have he' : ((s.withHost rest).address k).engines[k]? = some e := he
  exact ⟨_, effect (decode w) e, (step_of_command hhost).trans (exec_of_no_fault _ he' hf),
    State.withEngine_getElem?_addressed _ he', effect_decode_phase e w⟩

/-- Settles O2: each word has the `op` of its row, and the decoder reads its `byte` field. -/
theorem decodingTableWords : Obligations.DecodingTableWords :=
  ⟨decode_of_op_reserved rfl, decode_of_op_reserved rfl, decode_of_op_init rfl, decode_of_op_init rfl,
    decode_of_op_init rfl, decode_of_op_update rfl, decode_of_op_update rfl, decode_of_op_update rfl,
    decode_of_op_final rfl, decode_of_op_final rfl⟩

/-- Settles O13: every instruction is one command on the addressed engine, and there is none. -/
theorem commandForNoEngineStops : Obligations.CommandForNoEngineStops := fun i s h =>
  (exec_eq_onAddressed i s).trans (onAddressed_of_no_engine _ (List.getElem?_eq_none h))

end Sys2Proof.Machine
